-- ==== Sys2Proof/Word.lean ====
section
/-! DEFINITION. The widths of 00_scope.md R11: what the spec treats as bits. -/

namespace Sys2Proof

/-- A data byte, a length L, ACC, CHK, MAXPAY: 8 bits, unsigned (R11, R12). -/
abbrev Byte := BitVec 8

/-- TMR, TSYNC and read data: 16 bits, unsigned (R11). -/
abbrev Half := BitVec 16

/-- A command word: 32 bits, bit 0 the least significant (R11, R13). -/
abbrev Word := BitVec 32

/-- A read address, `rd_addr`: 9 bits (R11). -/
abbrev RdAddr := BitVec 9

/-- IDX: 9 bits, because LEN + 3 reaches 256 (R11, R28). -/
abbrev Index := BitVec 9

end Sys2Proof
end

