-- ==== Sys2Proof/Machine/Ports.lean ====
section
/-! DEFINITION. The ports of the block (10_state.md R36, R37), as records of what they show in one cycle. -/

namespace Sys2Proof.Machine

/-- The inputs, sampled once a cycle (R37). Every combination is legal. -/
structure Inputs where
  /-- From the reset source: synchronous reset, active high (R230). -/
  rst : Bool
  /-- From the host: a command word is presented this cycle. -/
  cmdValid : Bool
  /-- From the host: the command word, ignored when `cmd_valid = 0`. -/
  cmdWord : Word
  /-- From the host: the read address. -/
  rdAddr : RdAddr
  /-- From the transport: a byte is available. -/
  rxValid : Bool
  /-- From the transport: the byte at its head, ignored when `rx_valid = 0`. -/
  rxData : Byte
  /-- From the time base: one time unit has passed (R214). -/
  tick : Bool
deriving DecidableEq, Repr, Inhabited

/-- The outputs of R36. -/
structure Outputs where
  /-- The block takes an offered byte in this cycle. -/
  rxReady : Bool
  /-- The state at the start of the cycle is busy. -/
  busy : Bool
  /-- The state at the start of the cycle is finished. -/
  fin : Bool
  /-- READ(s, rd_addr), from the state at the start of the cycle. -/
  rdData : Half
deriving DecidableEq, Repr

/-- The inputs of a cycle in which nothing is asked of the block and nothing is offered to it. -/
def quietInputs : Inputs :=
  { rst := false, cmdValid := false, cmdWord := 0, rdAddr := 0, rxValid := false, rxData := 0, tick := false }

/-- A cycle in which the host presents the command word `w` and nothing else happens. -/
def commandInputs (w : Word) : Inputs := { quietInputs with cmdValid := true, cmdWord := w }

end Sys2Proof.Machine
end

