-- ==== Sys2Proof/Config.lean ====
section
/-! DEFINITION. What one instance of the block fixes (00_scope.md R6 to R11), and the values the spec leaves free. -/

namespace Sys2Proof.Config

/-- How the body timeout is measured (R9). -/
inductive BodyMode where
  /-- One limit for the whole body. -/
  | total
  /-- The timer restarts at every stored byte but the last. -/
  | interByte
deriving DecidableEq, Repr

/-- The parameters of one instance (R6 to R9). `TICK` (R10) is left out: no rule depends on it (log 12). -/
structure Params where
  /-- BUF_CAP, the capacity of the response buffer in bytes (R6). -/
  bufCap : Nat
  /-- T_SETTLE, the settle pause in ticks (R7). -/
  tSettle : Half
  /-- T_LEN, the length-byte sub-timeout in ticks (R8). -/
  tLen : Half
  /-- T_BODY, the body timeout in ticks (R9). -/
  tBody : Half
  /-- BODY_MODE (R9). -/
  bodyMode : BodyMode
deriving DecidableEq, Repr

/-- The bounds of R6. Those of R7 to R9 are in the types. -/
abbrev Params.wf (p : Params) : Prop := 4 ≤ p.bufCap ∧ p.bufCap ≤ 256

/-- The reference configuration of R11. -/
def reference : Params :=
  { bufCap := 16, tSettle := 1, tLen := 100, tBody := 100, bodyMode := .total }

/-- DESIGN CHOICE, unsafe (log 4): what a byte of BUF reads as where State lists none. The spec draws it freely (U1). A
statement about every state still holds for every draw, because a state may list any contents. -/
def bufUnlisted : Byte := 0x00

/-- DESIGN CHOICE, safe (log 1): a free value. What the environment presents in the cycle of this number, once the
inputs listed in State are used up: R19 lets the environment choose anything. -/
opaque freeInputs : Nat → Machine.Inputs

/-- DESIGN CHOICE, safe (log 7): a free value. Where a write to BUF at an index of BUF_CAP or more lands, if anywhere,
for this BUF_CAP and this index. No state after a reset makes such a write (R61). -/
opaque strayIndex : Nat → Nat → Option Nat

end Sys2Proof.Config
end

