-- ==== Sys2Proof/Machine/State.lean ====
section
/-! DEFINITION. The state of hpma_frx: the record of 10_state.md R20, and the model's own fields beside it. -/

namespace Sys2Proof.Machine

/-- ST, the receiver's control state (R21). -/
inductive St where
  /-- 0: after reset, no frame has been started. -/
  | idle
  /-- 1: skipping bytes until the sentinel. -/
  | sync
  /-- 2: the pause after the sentinel. -/
  | settle
  /-- 3: waiting for the length byte. -/
  | lenwait
  /-- 4: reading the L + 1 remaining bytes. -/
  | body
  /-- 5: a raw frame is in BUF. -/
  | done
  /-- 6: the frame failed with the code in ERR. -/
  | error
  /-- 7: no rule enters it. Only a power-on draw holds it (U2, U7; log 6). -/
  | unused7
deriving DecidableEq, Repr

/-- ERR, the code of the error that ended the frame (R23). -/
inductive Err where
  /-- 0: no error. -/
  | none
  /-- 1: no sentinel in time (R125). -/
  | syncTimeout
  /-- 2: no length byte in time (R130). -/
  | lengthTimeout
  /-- 3: the length byte fails the check (R133). -/
  | invalidLength
  /-- 4: too few body bytes in time (R135). -/
  | shortRead
  /-- 5: never written. Only a power-on draw holds it (U2, U7; log 6). -/
  | unused5
  /-- 6: never written, as 5. -/
  | unused6
  /-- 7: never written, as 5. -/
  | unused7
deriving DecidableEq, Repr

/-- BUF as a list of (index, byte) pairs in canonical form: see `Memory.wf`. -/
abbrev Memory := List Host.Cell

/-- The state. The first eleven fields are the record of R20. The last four are the model's own. -/
structure State where
  /-- ST: control state (R21). -/
  st : St
  /-- ERR: code of the last frame error (R23). -/
  err : Err
  /-- IGN: a command was ignored because the block was busy (R24). -/
  ign : Bool
  /-- ILL: an illegal command word was presented (R25). -/
  ill : Bool
  /-- LEN: declared length of the current frame (R27). -/
  len : Byte
  /-- IDX: number of bytes stored in BUF for the current frame (R28). -/
  idx : Index
  /-- ACC: the checksum accumulator (R29). -/
  acc : Byte
  /-- TMR: the phase timer in ticks (R31). -/
  tmr : Half
  /-- TSYNC: the sync timeout in ticks (R32). -/
  tsync : Half
  /-- MAXPAY: the caller payload capacity in bytes (R33). -/
  maxpay : Byte
  /-- BUF: the response buffer (R34). -/
  buf : Memory
  /-- The model's own: the constants of this instance (R6 to R9). No step writes them (log 3). -/
  params : Config.Params
  /-- The model's own: what the environment presents in the coming cycles, the next one first (log 1). -/
  inputs : List Inputs
  /-- The model's own: the number of the coming cycle, at which free inputs are drawn (log 1). -/
  cycle : Nat
  /-- The model's own: what the outputs showed in the last cycle (log 5). -/
  out : Outputs
deriving DecidableEq, Repr

/-- No fault exists: the block has no trap (60_exceptions.md R209), and "no fault is raised in this block"
(93_implementation_defined.md). What the spec calls errors are the ERROR state and the flags ILL and IGN. Safe. -/
inductive Fault where
deriving DecidableEq, Repr

/-- Why the model could have no meaning for an instruction. -/
inductive Refusal where
  /-- Raised only by an arm of `exec` whose instruction has no meaning yet. No arm is one, so nothing raises it. Safe. -/
  | notModelled (mnemonic : String)
deriving DecidableEq, Repr

/-- The machine right after a reset cycle: the values of R40 and R230. BUF lists nothing (log 4), the instance is the
reference configuration (log 3), the environment's choices are all open (log 1), and no cycle has been recorded
(log 5). -/
def State.reset : State :=
  { st := .idle, err := .none, ign := false, ill := false, len := 0, idx := 0, acc := 0, tmr := 0, tsync := 0,
    maxpay := 0, buf := [], params := Config.reference, inputs := [], cycle := 0,
    out := { rxReady := false, busy := false, fin := false, rdData := 0 } }

end Sys2Proof.Machine
end

