-- ==== Sys2Proof/Machine/Flags.lean ====
section
/-! DEFINITION. The flags and the STATUS view (10_state.md R21, R23, R26, R35). -/

namespace Sys2Proof.Machine

/-- The number of a control state (R21). -/
def St.code (c : St) : BitVec 3 :=
  match c with
  | .idle => 0
  | .sync => 1
  | .settle => 2
  | .lenwait => 3
  | .body => 4
  | .done => 5
  | .error => 6
  | .unused7 => 7

/-- The number of an error (R23, R200). -/
def Err.code (e : Err) : BitVec 3 :=
  match e with
  | .none => 0
  | .syncTimeout => 1
  | .lengthTimeout => 2
  | .invalidLength => 3
  | .shortRead => 4
  | .unused5 => 5
  | .unused6 => 6
  | .unused7 => 7

/-- The control states of class busy (R21). -/
def St.isBusy (c : St) : Bool :=
  match c with
  | .idle => false
  | .sync => true
  | .settle => true
  | .lenwait => true
  | .body => true
  | .done => false
  | .error => false
  | .unused7 => false

/-- The control states of class finished (R21). -/
def St.isFinished (c : St) : Bool :=
  match c with
  | .idle => false
  | .sync => false
  | .settle => false
  | .lenwait => false
  | .body => false
  | .done => true
  | .error => true
  | .unused7 => false

/-- `busy(s)` (R21). -/
def busy (s : State) : Bool := s.st.isBusy

/-- `finished(s)` (R21). -/
def finished (s : State) : Bool := s.st.isFinished

/-- ZERO, combinational: the accumulator is 0 (R26). -/
def zeroFlag (s : State) : Bool := s.acc == 0

/-- STATUS: `{3'b000, FIN, BUSY, ZERO, ILL, IGN, 1'b0, ERR, 1'b0, ST}` (R35). -/
def status (s : State) : Half :=
  (0 : BitVec 3) ++ BitVec.ofBool (finished s) ++ BitVec.ofBool (busy s) ++ BitVec.ofBool (zeroFlag s)
    ++ BitVec.ofBool s.ill ++ BitVec.ofBool s.ign ++ (0 : BitVec 1) ++ s.err.code ++ (0 : BitVec 1) ++ s.st.code

end Sys2Proof.Machine
end

