-- ==== Sys2Proof/Machine/Memory.lean ====
section
/-! DEFINITION. Reading and writing one byte of BUF (10_state.md R34), in one canonical form. -/

namespace Sys2Proof.Machine

/-- The byte at index `i`: the listed one, or `Config.bufUnlisted` where none is listed. -/
def Memory.read (m : Memory) (i : Nat) : Byte :=
  match m with
  | [] => Config.bufUnlisted
  | (a, b) :: rest => if a = i then b else Memory.read rest i

/-- `BUF[i] <- v` in canonical form: the entries stay in rising order, and none equals what an unlisted byte reads as. -/
def Memory.write (m : Memory) (i : Nat) (v : Byte) : Memory :=
  match m with
  | [] => if v = Config.bufUnlisted then [] else [(i, v)]
  | (a, b) :: rest =>
    if i < a then (if v = Config.bufUnlisted then (a, b) :: rest else (i, v) :: (a, b) :: rest)
    else if a = i then (if v = Config.bufUnlisted then rest else (i, v) :: rest)
    else (a, b) :: Memory.write rest i v

/-- Canonical form above a bound: indices rise strictly from `low`, stay below `cap`, and no byte is the unlisted one. -/
def Memory.wfFrom (low cap : Nat) (m : Memory) : Bool :=
  match m with
  | [] => true
  | (a, b) :: rest =>
    decide (low ≤ a) && decide (a < cap) && decide (b ≠ Config.bufUnlisted) && Memory.wfFrom (a + 1) cap rest

/-- The canonical form of a buffer of `cap` bytes. -/
def Memory.wf (cap : Nat) (m : Memory) : Bool := Memory.wfFrom 0 cap m

/-- The bytes at indices 0 to `n - 1`, in order. -/
def Memory.firstBytes (m : Memory) (n : Nat) : List Byte := (List.range n).map (Memory.read m)

end Sys2Proof.Machine
end

