-- ==== Sys2Proof/Machine/Ops.lean ====
section
/-! DEFINITION. The named operations the meanings and the receiver share: arithmetic, the buffer, the phase limits, the
handshake, entering ERROR and the return from it. -/

namespace Sys2Proof.Machine

/-! ### Arithmetic (40_checksum_reducer.md R111) -/

/-- `neg8(a) = (256 - a) mod 256` (00_scope.md R16). -/
def neg8 (a : Byte) : Byte := BitVec.ofNat 8 ((256 - a.toNat) % 256)

/-- `(a + b) mod 256`, with the carry dropped (R101). -/
def addMod256 (a b : Byte) : Byte := BitVec.ofNat 8 ((a.toNat + b.toNat) % 256)

/-- `sat16(v) = min(v, 0xFFFF)` (00_scope.md R13). -/
def sat16 (v : Nat) : Half := BitVec.ofNat 16 (min v 0xFFFF)

/-- CHK, combinational: `neg8(s.ACC)` (10_state.md R29). -/
def chk (s : State) : Byte := neg8 s.acc

/-- `tinc` (41_frame_reader.md R123): the timer with this cycle's tick counted. -/
def tinc (tick : Bool) (tmr : Half) : Half := if tick then sat16 (tmr.toNat + 1) else tmr

/-! ### The buffer -/

/-- BUF[i]. -/
def bufRead (s : State) (i : Nat) : Byte := s.buf.read i

/-- Where a write at index `i` lands: at `i` inside the buffer; outside it, where the free value says, if that is inside
(log 7). -/
def bufTarget (p : Config.Params) (i : Nat) : Option Nat :=
  if i < p.bufCap then some i
  else match Config.strayIndex p.bufCap i with
    | some j => if j < p.bufCap then some j else none
    | none => none

/-- BUF with `v` written at index `i`. -/
def storedBuffer (n : State) (i : Nat) (v : Byte) : Memory :=
  match bufTarget n.params i with
  | some j => n.buf.write j v
  | none => n.buf

/-- `BUF[i] <- v`: one byte, visible from the next cycle on (20_memory.md R56). -/
def bufWrite (n : State) (i : Nat) (v : Byte) : State := { n with buf := storedBuffer n i v }

/-- `lenok(L)` (41_frame_reader.md R131), on unbounded integers. -/
def lenok (p : Config.Params) (maxpay l : Byte) : Bool :=
  decide ((1 : Int) ≤ l.toNat) && decide ((l.toNat : Int) + 1 ≤ (p.bufCap : Int) - 2)
    && decide ((l.toNat : Int) - 1 ≤ maxpay.toNat)

/-! ### Phases and the handshake -/

/-- The limit of the phase the state is in (41_frame_reader.md R121). Only busy states have one. -/
def limit (s : State) : Option Half :=
  match s.st with
  | .idle => none
  | .sync => some s.tsync
  | .settle => some s.params.tSettle
  | .lenwait => some s.params.tLen
  | .body => some s.params.tBody
  | .done => none
  | .error => none
  | .unused7 => none

/-- `expired(s)` (R121): the phase's limit has been reached. -/
def expired (s : State) : Bool :=
  match limit s with
  | some t => decide (t ≤ s.tmr)
  | none => false

/-- The output `rx_ready` (10_state.md R36). -/
def rxReady (rst : Bool) (s : State) : Bool :=
  !rst && ((s.st == .sync && decide (s.tmr < s.tsync)) || (s.st == .lenwait && decide (s.tmr < s.params.tLen))
    || (s.st == .body && decide (s.tmr < s.params.tBody)))

/-- `fire` (R122): a byte is offered and taken in this cycle. -/
def fire (inp : Inputs) (s : State) : Bool := inp.rxValid && rxReady inp.rst s

/-! ### Errors and the return from them (60_exceptions.md R201, R210) -/

/-- `raise E` (R201): `ST' <- ERROR; ERR' <- code(E)`, and nothing else. -/
def raiseError (e : Err) (n : State) : State := { n with st := .error, err := e }

/-- An accepted START (41_frame_reader.md R124): the only way out of a finished state but reset (R210). BUF, TSYNC and
MAXPAY are unchanged. -/
def startFrame (s : State) : State :=
  { s with st := .sync, err := .none, ign := false, ill := false, len := 0, idx := 0, acc := 0, tmr := 0 }

/-- `reset(s)` (70_reset_and_hazards.md R230). BUF is unchanged. -/
def resetBlock (s : State) : State :=
  { s with st := .idle, err := .none, ign := false, ill := false, len := 0, idx := 0, acc := 0, tmr := 0,
           tsync := 0, maxpay := 0 }

/-! ### Commands -/

/-- R164: while busy, a legal command other than NOP only sets IGN. Otherwise its effect `t` is taken. -/
def unlessBusy (s t : State) : State := if busy s then { s with ign := true } else t

/-! ### The cycle -/

/-- `TMR' <- tinc`, read from the state `s` at the start of the cycle. -/
def countTick (tick : Bool) (s n : State) : State := { n with tmr := tinc tick s.tmr }

/-- The inputs of the coming cycle: the first listed ones, or a free draw when none are listed (log 1). -/
def currentInputs (s : State) : Inputs := s.inputs.headD (Config.freeInputs s.cycle)

/-- What the end of a cycle that began in `s` records in the model's own fields: the outputs of R36 other than `rd_data`,
and that the cycle's inputs are used up (log 1, log 5). -/
def closeCycle (inp : Inputs) (s n : State) : State :=
  { n with
    inputs := s.inputs.tail, cycle := s.cycle + 1,
    out := { rxReady := rxReady inp.rst s, busy := busy s, fin := finished s, rdData := n.out.rdData } }

end Sys2Proof.Machine
end

