-- ==== Sys2Proof/Machine/ReadPort.lean ====
section
/-! DEFINITION. The read port: the address map of 20_memory.md R51 to R53. -/

namespace Sys2Proof.Machine

/-- The value of BODY_MODE at 0x00C (R51). -/
def bodyModeCode (m : Config.BodyMode) : Half :=
  match m with
  | .total => 0
  | .interByte => 1

/-- The BUF window (R52): BUF[i], or 0 where there is no such entry. -/
def readWindow (s : State) (i : Nat) : Half :=
  if i < s.params.bufCap then (bufRead s i).zeroExtend 16 else 0

/-- `READ(addr)` (R51 to R53): total, with no side effect. -/
def readPort (s : State) (a : RdAddr) : Half :=
  if a = 0x000 then status s
  else if a = 0x001 then s.len.zeroExtend 16
  else if a = 0x002 then s.idx.zeroExtend 16
  else if a = 0x003 then s.acc.zeroExtend 16
  else if a = 0x004 then (chk s).zeroExtend 16
  else if a = 0x005 then s.tmr
  else if a = 0x006 then s.tsync
  else if a = 0x007 then s.maxpay.zeroExtend 16
  else if a = 0x008 then BitVec.ofNat 16 s.params.bufCap
  else if a = 0x009 then s.params.tSettle
  else if a = 0x00A then s.params.tLen
  else if a = 0x00B then s.params.tBody
  else if a = 0x00C then bodyModeCode s.params.bodyMode
  else if a < 0x100 then 0
  else readWindow s (a.toNat - 0x100)

end Sys2Proof.Machine
end

