-- ==== Sys2Proof/Machine/Access.lean ====
section
/-! DEFINITION. NOP, the configuration commands, illegal words and READ (42_config_and_access.md R161 to R166). -/

namespace Sys2Proof.Machine

/-- `NOP` (R161): nothing is written, busy or not. -/
def execNop (s : State) : Host.Outcome State Fault Refusal := .next s

/-- `TSYNC t` (R162): `if not busy(s): TSYNC' <- t`. -/
def execTsync (t : Half) (s : State) : Host.Outcome State Fault Refusal :=
  .next (unlessBusy s { s with tsync := t })

/-- `MAXPAY m` (R163): `if not busy(s): MAXPAY' <- m`. -/
def execMaxpay (m : Byte) (s : State) : Host.Outcome State Fault Refusal :=
  .next (unlessBusy s { s with maxpay := m })

/-- An illegal word (R165): in any state the only effect is `ILL' <- 1`, whatever the word. -/
def execIllegal (_w : Word) (s : State) : Host.Outcome State Fault Refusal := .next { s with ill := true }

/-- `READ(addr)` (R166): `rd_data` shows the value from the state at the start of the cycle. No block state changes. -/
def execRead (a : RdAddr) (s : State) : Host.Outcome State Fault Refusal :=
  .next { s with out := { s.out with rdData := readPort s a } }

end Sys2Proof.Machine
end

