-- ==== Sys2Proof/Machine/FrameReader.lean ====
section
/-! DEFINITION. START and the receiver (41_frame_reader.md). Every receiver step reads the state `s` at the start of the
cycle and writes the next state `n`, as 10_state.md R30 has it. -/

namespace Sys2Proof.Machine

/-- `START` (R124): begin reading one frame. -/
def execStart (s : State) : Host.Outcome State Fault Refusal := .next (unlessBusy s (startFrame s))

/-- The inbound sentinel (30_encoding.md R80). -/
def sentinel : Byte := 0x40

/-- R126: the sentinel is stored and added, and the pause begins. DEDUCED (log 14): at the literal index 0, where R34 says
IDX. -/
def acceptSentinel (s n : State) : State :=
  { bufWrite n 0 sentinel with acc := addMod256 s.acc sentinel, idx := 1, st := .settle, tmr := 0 }

/-- R132: a valid length is stored and added, and the body begins. DEDUCED (log 14): at the literal index 1, where R34 says
IDX. -/
def acceptLength (l : Byte) (s n : State) : State :=
  { bufWrite n 1 l with len := l, acc := addMod256 s.acc l, idx := 2, st := .body, tmr := 0 }

/-- R136: a command or payload byte is stored and added. -/
def storeBodyByte (inp : Inputs) (s n : State) : State :=
  { bufWrite n s.idx.toNat inp.rxData with
    acc := addMod256 s.acc inp.rxData, idx := s.idx + 1,
    tmr := match s.params.bodyMode with
      | .interByte => 0
      | .total => tinc inp.tick s.tmr }

/-- R137: the checksum byte is stored, and not added, and the frame is complete. -/
def storeChecksum (inp : Inputs) (s n : State) : State :=
  { bufWrite n s.idx.toNat inp.rxData with idx := s.idx + 1, st := .done }

/-- SYNC (R125 to R128). -/
def receiveSync (inp : Inputs) (s n : State) : State :=
  if expired s then raiseError .syncTimeout n
  else if inp.rxValid && inp.rxData == sentinel then acceptSentinel s n
  else countTick inp.tick s n

/-- SETTLE (R129): nothing is consumed. -/
def receiveSettle (inp : Inputs) (s n : State) : State :=
  if expired s then { n with st := .lenwait, tmr := 0 } else countTick inp.tick s n

/-- LENWAIT (R130 to R134). -/
def receiveLenwait (inp : Inputs) (s n : State) : State :=
  if expired s then raiseError .lengthTimeout n
  else if inp.rxValid then
    if lenok s.params s.maxpay inp.rxData then acceptLength inp.rxData s n
    else raiseError .invalidLength { n with len := inp.rxData }
  else countTick inp.tick s n

/-- BODY (R135 to R138). DEDUCED, unsafe outside the invariant (log 8): with IDX above LEN + 2, which no state after a
reset has, neither R136 nor R137 applies, and R31 counts the tick. -/
def receiveBody (inp : Inputs) (s n : State) : State :=
  if expired s then raiseError .shortRead n
  else if inp.rxValid then
    if s.idx.toNat < s.len.toNat + 2 then storeBodyByte inp s n
    else if s.idx.toNat = s.len.toNat + 2 then storeChecksum inp s n
    else countTick inp.tick s n
  else countTick inp.tick s n

/-- The receiver part of a cycle: exactly one phase rule in a busy state, nothing in another (R30, R140, R141). -/
def receive (inp : Inputs) (s n : State) : State :=
  match s.st with
  | .idle => n
  | .sync => receiveSync inp s n
  | .settle => receiveSettle inp s n
  | .lenwait => receiveLenwait inp s n
  | .body => receiveBody inp s n
  | .done => n
  | .error => n
  | .unused7 => n

end Sys2Proof.Machine
end

