-- ==== Sys2Proof/Machine/Reducer.lean ====
section
/-! DEFINITION. The reducer commands (40_checksum_reducer.md section 2). -/

namespace Sys2Proof.Machine

/-- `RCLR` (R102): `if not busy(s): ACC' <- 0`. -/
def execRclr (s : State) : Host.Outcome State Fault Refusal := .next (unlessBusy s { s with acc := 0 })

/-- `RADD b` (R103): `if not busy(s): ACC' <- (s.ACC + b) mod 256`. -/
def execRadd (b : Byte) (s : State) : Host.Outcome State Fault Refusal :=
  .next (unlessBusy s { s with acc := addMod256 s.acc b })

end Sys2Proof.Machine
end

