-- ==== Sys2Proof/Syntax.lean ====
section
/-! DEFINITION. The operations of hpma_frx: one constructor for each row of spec/opcode_table.json (30_encoding.md R72). -/

namespace Sys2Proof

/-- What the host can do in a cycle: the six commands of R72, the illegal command word of R75, and the read port of
R166. Each operand has the width R74 gives it, so no operand can be out of range. -/
inductive Instr where
  /-- `NOP`: no operation (R161). -/
  | nop
  /-- `START`: begin reading one frame (R124). -/
  | start
  /-- `TSYNC t`: set the sync timeout to `t` ticks (R162). -/
  | tsync (t : Half)
  /-- `MAXPAY m`: set the caller payload capacity to `m` bytes (R163). -/
  | maxpay (m : Byte)
  /-- `RCLR`: clear the reducer (R102). -/
  | rclr
  /-- `RADD b`: add one byte to the reducer (R103). -/
  | radd (b : Byte)
  /-- `READ a`: read one 16-bit value on the read port; it has no command word (R166). -/
  | read (a : RdAddr)
  /-- A command word that decodes to no command (R75, R165). The word is kept, so that decoding loses no bit (log 11). -/
  | illegal (w : Word)
deriving DecidableEq, Repr

end Sys2Proof
end

