-- ==== Sys2Proof/Machine/Dispatch.lean ====
section
/-! DEFINITION. The command part of a cycle, and the read port: one arm for each operation (42_config_and_access.md R160). -/

namespace Sys2Proof.Machine

/-- The effect of one operation on the state at the start of a cycle (R160, R166). -/
def exec (i : Instr) (s : State) : Host.Outcome State Fault Refusal :=
  match i with
  | .nop => Sys2Proof.Machine.execNop s
  | .start => Sys2Proof.Machine.execStart s
  | .tsync t => Sys2Proof.Machine.execTsync t s
  | .maxpay m => Sys2Proof.Machine.execMaxpay m s
  | .rclr => Sys2Proof.Machine.execRclr s
  | .radd b => Sys2Proof.Machine.execRadd b s
  | .read a => Sys2Proof.Machine.execRead a s
  | .illegal w => Sys2Proof.Machine.execIllegal w s

end Sys2Proof.Machine
end

