-- ==== Sys2Proof/Machine/Operands.lean ====
section
/-! DEFINITION. The fields and formats of a command word (30_encoding.md R70 to R74), and the match and mask of each
command (R73). -/

namespace Sys2Proof.Machine

/-- OP, bits 31:28 (R70). -/
def opField (w : Word) : BitVec 4 := w.extractLsb' 28 4

/-- RSV, bits 27:16, which must be 0 (R70). -/
def rsvField (w : Word) : BitVec 12 := w.extractLsb' 16 12

/-- IMM, bits 15:0 (R70). It is the operand of format I16. -/
def immField (w : Word) : Half := w.extractLsb' 0 16

/-- IMM[15:8], which must be 0 in format I8 (R70). -/
def immHigh (w : Word) : Byte := w.extractLsb' 8 8

/-- IMM[7:0], the operand of format I8 (R70, R74). -/
def immLow (w : Word) : Byte := w.extractLsb' 0 8

/-- A word of format Z: OP, and every other bit 0 (R70). -/
def wordZ (op : BitVec 4) : Word := op ++ (0 : BitVec 28)

/-- A word of format I16: OP, RSV = 0, IMM the operand (R70). -/
def wordI16 (op : BitVec 4) (imm : Half) : Word := (op ++ (0 : BitVec 12) ++ imm : BitVec 32)

/-- A word of format I8: OP, RSV = 0, IMM[15:8] = 0, IMM[7:0] the operand (R70). -/
def wordI8 (op : BitVec 4) (imm : Byte) : Word := (op ++ (0 : BitVec 20) ++ imm : BitVec 32)

/-- One row of R73's match and mask list. -/
structure OpRow where
  /-- The row's name in spec/opcode_table.json. -/
  mnemonic : String
  /-- The bits a word of the command has where the mask is 1. -/
  pattern : Word
  /-- Which bits of the word the command fixes. -/
  mask : Word
deriving DecidableEq, Repr

/-- R73's match and mask list, one row for each command word. -/
def opcodeRows : List OpRow :=
  [ ⟨"NOP",    0x00000000#32, 0xFFFFFFFF#32⟩,
    ⟨"START",  0x10000000#32, 0xFFFFFFFF#32⟩,
    ⟨"TSYNC",  0x20000000#32, 0xFFFF0000#32⟩,
    ⟨"MAXPAY", 0x30000000#32, 0xFFFFFF00#32⟩,
    ⟨"RCLR",   0x40000000#32, 0xFFFFFFFF#32⟩,
    ⟨"RADD",   0x50000000#32, 0xFFFFFF00#32⟩ ]

/-- "A word w is command X iff (w & mask_X) == match_X" (R73). -/
def rowMatches (r : OpRow) (w : Word) : Bool := (w &&& r.mask) == r.pattern

/-- Some command matches the word; when none does, the word is ILLEGAL (R73). -/
def isCommandWord (w : Word) : Bool := opcodeRows.any (fun r => rowMatches r w)

end Sys2Proof.Machine
end

