-- ==== Sys2Proof/Decode.lean ====
section
/-! DEFINITION. Decoding and encoding (30_encoding.md R70 to R76), and the reading of a row of the opcode table. -/

namespace Sys2Proof

/-- Where an operation reaches the block: the command port takes a 32-bit word (R70), the read port a 9-bit address
(R72: "The read port has no command word"). -/
inductive PortWord where
  /-- A word on `cmd_word` in a cycle with `cmd_valid = 1`. -/
  | cmd (w : Word)
  /-- An address on `rd_addr`. -/
  | rdAddr (a : RdAddr)
deriving DecidableEq, Repr

/-- Why a word is ILLEGAL: the four cases of R75. -/
inductive IllegalReason where
  /-- OP is 0x6 to 0xF. -/
  | reservedOp
  /-- RSV is not 0. -/
  | rsvNonzero
  /-- A word of format Z with IMM not 0. -/
  | immNonzero
  /-- A word of format I8 with IMM[15:8] not 0. -/
  | immHighNonzero
deriving DecidableEq, Repr

/-- `decode(w)` of R73, with the reason R75 gives where the word is illegal. -/
def classify (w : Word) : Except IllegalReason Instr :=
  if Machine.rsvField w ≠ 0 then .error .rsvNonzero
  else match (Machine.opField w).toNat with
    | 0x0 => if Machine.immField w = 0 then .ok .nop else .error .immNonzero
    | 0x1 => if Machine.immField w = 0 then .ok .start else .error .immNonzero
    | 0x2 => .ok (.tsync (Machine.immField w))
    | 0x3 => if Machine.immHigh w = 0 then .ok (.maxpay (Machine.immLow w)) else .error .immHighNonzero
    | 0x4 => if Machine.immField w = 0 then .ok .rclr else .error .immNonzero
    | 0x5 => if Machine.immHigh w = 0 then .ok (.radd (Machine.immLow w)) else .error .immHighNonzero
    | _ => .error .reservedOp

/-- R73: total on 32-bit words, to a command or ILLEGAL. -/
def decodeWord (w : Word) : Instr :=
  match classify w with
  | .ok i => i
  | .error _ => .illegal w

/-- What either port presents, decoded (R72, R73, R166). -/
def decode (p : PortWord) : Instr :=
  match p with
  | .cmd w => decodeWord w
  | .rdAddr a => .read a

/-- What the host presents for an operation: the words of R77. An illegal term is presented as its own word. -/
def encode (i : Instr) : PortWord :=
  match i with
  | .nop => .cmd (Machine.wordZ 0x0)
  | .start => .cmd (Machine.wordZ 0x1)
  | .tsync t => .cmd (Machine.wordI16 0x2 t)
  | .maxpay m => .cmd (Machine.wordI8 0x3 m)
  | .rclr => .cmd (Machine.wordZ 0x4)
  | .radd b => .cmd (Machine.wordI8 0x5 b)
  | .read a => .rdAddr a
  | .illegal w => .cmd w

/-- DESIGN CHOICE (log 10): how a row of the opcode table names its port. The rows of command words have 32 bits. The
READ row has the 9 bits of `rd_addr`, 16 in whole bytes. -/
def tablePortWord (nbits w : Nat) : Option PortWord :=
  if nbits = 9 ∨ nbits = 16 then
    if w < 512 then some (.rdAddr (BitVec.ofNat 9 w)) else none
  else if w < 2 ^ 32 then some (.cmd (BitVec.ofNat 32 w)) else none

/-- The instruction the decoder reads from a row's bits `w`. No byte order comes in: the word stands on 32 wires
(20_memory.md R54). -/
def decodeTableWord (nbits w : Nat) : Option Instr := (tablePortWord nbits w).map decode

end Sys2Proof
end

