-- ==== Sys2Proof/Machine/Fetch.lean ====
section
/-! DEFINITION. How the operations of a cycle are found on the ports, and what the block does besides them
(10_state.md R30, 42_config_and_access.md R160). -/

namespace Sys2Proof.Machine

/-- The read of this cycle: `rd_addr` is read in every cycle (R166, R167). -/
def fetchRead (inp : Inputs) : Instr := decode (.rdAddr inp.rdAddr)

/-- The command of this cycle, if any: none when `cmd_valid = 0` (30_encoding.md R75), and none in a reset cycle, where
the word is ignored (70_reset_and_hazards.md R230). -/
def fetchCommand (inp : Inputs) : Option Instr :=
  if inp.rst then none else if inp.cmdValid then some (decode (.cmd inp.cmdWord)) else none

/-- What a cycle that began in `s` does after its command part `n`: reset overrides everything (R207); else the receiver
runs if the block was busy. -/
def receiveOrReset (inp : Inputs) (s n : State) : State :=
  if inp.rst then resetBlock n else if busy s then receive inp s n else n

/-- The coming cycle's inputs with `p` presented on its port and no other operation asked for: for a command word, the
word on the command port; for a read address, the address and no command. -/
def presentOn (inp : Inputs) (p : PortWord) : Inputs :=
  match p with
  | .cmd w => { inp with rst := false, cmdValid := true, cmdWord := w }
  | .rdAddr a => { inp with rst := false, cmdValid := false, rdAddr := a }

/-- `s` with `p` presented in the coming cycle. Where no inputs are listed, the rest of that cycle is quiet. -/
def presentNext (s : State) (p : PortWord) : State :=
  { s with inputs := presentOn (s.inputs.headD quietInputs) p :: s.inputs.tail }

end Sys2Proof.Machine
end

