-- ==== Sys2Proof/Machine/Step.lean ====
section
/-! DEFINITION. One cycle (10_state.md R30). -/

namespace Sys2Proof.Machine

/-- One cycle: the READ of the cycle, then its command if there is one, then the reset or the receiver. The READ changes
no block state (20_memory.md R57), so the command still reads the state at the start of the cycle, and the receiver is
given that state. -/
def step (s : State) : Host.Outcome State Fault Refusal :=
  match exec (fetchRead (currentInputs s)) s with
  | .next r =>
    match (match fetchCommand (currentInputs s) with
      | some i => exec i r
      | none => .next r) with
    | .next n => .next (closeCycle (currentInputs s) s (receiveOrReset (currentInputs s) s n))
    | .fault f => .fault f
    | .refused x => .refused x
  | .fault f => .fault f
  | .refused x => .refused x

/-- `s` with an instruction of the opcode table presented in the coming cycle (log 2). A number that no port takes
changes nothing. -/
def State.withFetchWord (s : State) (nbits w : Nat) : State :=
  match tablePortWord nbits w with
  | some p => presentNext s p
  | none => s

end Sys2Proof.Machine
end

