-- ==== Sys2Proof/Machine/Assembler.lean ====
section
/-! DEFINITION. Host programs: the lines of 30_encoding.md R77 and the pseudo-instructions of R78, as terms. The text of a
line is not parsed (log 15). -/

namespace Sys2Proof.Machine

/-- The names of R51 that a READ line may give, and `BUF[i]`. -/
inductive ReadName where
  | status | len | idx | acc | chk | tmr | tsync | maxpay
  | pBufcap | pTsettle | pTlen | pTbody | pBodymode
  /-- `BUF[i]`, address 0x100 + i. -/
  | buf (i : Nat)
  /-- A plain address. -/
  | addr (a : Nat)
deriving DecidableEq, Repr

/-- The address of a name (20_memory.md R51, R77). -/
def ReadName.address (r : ReadName) : Nat :=
  match r with
  | .status => 0x000
  | .len => 0x001
  | .idx => 0x002
  | .acc => 0x003
  | .chk => 0x004
  | .tmr => 0x005
  | .tsync => 0x006
  | .maxpay => 0x007
  | .pBufcap => 0x008
  | .pTsettle => 0x009
  | .pTlen => 0x00A
  | .pTbody => 0x00B
  | .pBodymode => 0x00C
  | .buf i => 0x100 + i
  | .addr a => a

/-- A line of a host program (R77). Operands are numbers as written, so one may be out of range. -/
inductive AsmLine where
  | nop
  | start
  | tsync (t : Nat)
  | maxpay (m : Nat)
  | rclr
  | radd (b : Nat)
  | read (r : ReadName)
  /-- `.word w`: a raw word (95_test_vectors.md P6). -/
  | word (w : Nat)
deriving DecidableEq, Repr

/-- What a line presents, or `none` for an assembly error: "An operand out of range … is an assembly error, never
truncated" (R77). -/
def assemble (l : AsmLine) : Option PortWord :=
  match l with
  | .nop => some (.cmd 0x00000000)
  | .start => some (.cmd 0x10000000)
  | .tsync t => if t ≤ 0xFFFF then some (.cmd (0x20000000 ||| BitVec.ofNat 32 t)) else none
  | .maxpay m => if m ≤ 0xFF then some (.cmd (0x30000000 ||| BitVec.ofNat 32 m)) else none
  | .rclr => some (.cmd 0x40000000)
  | .radd b => if b ≤ 0xFF then some (.cmd (0x50000000 ||| BitVec.ofNat 32 b)) else none
  | .read r => if r.address ≤ 0x1FF then some (.rdAddr (BitVec.ofNat 9 r.address)) else none
  | .word w => if w < 2 ^ 32 then some (.cmd (BitVec.ofNat 32 w)) else none

/-! ### Lines in cycles -/

/-- The inputs of the cycle of one line, with nothing else happening in it: a command line presents its word. DESIGN
CHOICE, safe (log 16): a READ line that is written by itself has a cycle of its own, with `cmd_valid = 0`. -/
def portInputs (p : PortWord) : Inputs :=
  match p with
  | .cmd w => commandInputs w
  | .rdAddr a => { quietInputs with rdAddr := a }

/-- One cycle of a host program: a line, and possibly a READ in the same cycle as the line (R77: "no command word; same
cycle as the line"), as 95_test_vectors.md P1 has it in its cycle c5. -/
structure ProgramLine where
  /-- The line. -/
  line : AsmLine
  /-- The name read in the cycle of a command line. -/
  joined : Option ReadName
deriving DecidableEq, Repr

/-- A line with no READ joined to it. -/
def AsmLine.alone (l : AsmLine) : ProgramLine := { line := l, joined := none }

/-- The inputs of the cycle of a program line, or `none` for an assembly error. Only a command line can be joined by a
READ: the read port takes one address a cycle (R37). -/
def ProgramLine.inputs (l : ProgramLine) : Option Inputs :=
  match l.joined with
  | none => (assemble l.line).map portInputs
  | some r =>
    match assemble l.line, assemble (.read r) with
    | some (.cmd w), some (.rdAddr a) => some { commandInputs w with rdAddr := a }
    | _, _ => none

/-- The cycles of a host program, or `none` if a line is an assembly error. -/
def programInputs (ls : List ProgramLine) : Option (List Inputs) := ls.mapM ProgramLine.inputs

/-! ### Pseudo-instructions (R78) -/

/-- `s` with a `READ STATUS` line in the coming cycle. What the agents other than the host choose for that cycle stays as
it is. -/
def pollNext (s : State) : State :=
  { s with inputs := { currentInputs s with cmdValid := false, rdAddr := BitVec.ofNat 9 ReadName.status.address }
      :: s.inputs.tail }

/-- The field FIN of a value read at STATUS (10_state.md R35). -/
def statusFin (v : Half) : Bool := v.getLsbD 12

/-- `POLL` from the state `s`: "`READ STATUS` repeated until STATUS.FIN = 1", one READ a cycle. The answer is the number of
READs up to and with the first that shows FIN, and the state after it; `none` if none of the first `fuel` READs does. -/
def pollRun (fuel : Nat) (s : State) : Option (Nat × State) :=
  match fuel with
  | 0 => none
  | k + 1 =>
    match step (pollNext s) with
    | .next t => if statusFin t.out.rdData then some (1, t) else (pollRun k t).map (fun r => (r.1 + 1, r.2))
    | .fault _ => none
    | .refused _ => none

/-- The pseudo-instructions of R78. -/
inductive Pseudo where
  | wait (n : Nat)
  | csum (bs : List Nat)
  | encode (cc : Nat)
  | poll
deriving DecidableEq, Repr

/-- The lines a pseudo-instruction stands for, one a cycle, when it is issued in the state `s` (R78). Only POLL depends on
the state: it has as many READs as it takes until FIN shows, and no expansion if that is more than `fuel` of them. DESIGN
CHOICE, safe (log 15): R78 lets the n cycles of `WAIT n` be lines of NOP or cycles with `cmd_valid = 0`, and here they are
NOPs. The machine does the same in both (R161). -/
def Pseudo.expand (p : Pseudo) (fuel : Nat) (s : State) : Option (List AsmLine) :=
  match p with
  | .wait n => some (List.replicate n .nop)
  | .csum bs => some (.rclr :: bs.map AsmLine.radd)
  | .encode cc => some (.rclr :: [0x68, 0x01, cc].map AsmLine.radd)
  | .poll => (pollRun fuel s).map (fun r => List.replicate r.1 (.read .status))

end Sys2Proof.Machine
end

