-- ==== Sys2Proof/Machine/Frames.lean ====
section
/-! DEFINITION. The wire frames (30_encoding.md section 6), the checksum function (40_checksum_reducer.md R100), and what
the host finds in the block after a frame (41_frame_reader.md R139, 42_config_and_access.md R168). -/

namespace Sys2Proof.Machine

/-- `sum(b_0 .. b_{n-1})`: the integer sum of the bytes, unsigned; the empty sum is 0 (00_scope.md R16). -/
def sumBytes (bs : List Byte) : Nat :=
  match bs with
  | [] => 0
  | b :: rest => b.toNat + sumBytes rest

/-- `compute(b_0 .. b_{n-1}) = (256 - (sum mod 256)) mod 256` (R100). -/
def compute (bs : List Byte) : Byte := BitVec.ofNat 8 ((256 - sumBytes bs % 256) % 256)

/-- The document's command codes (30_encoding.md R82): byte values in frames, no operations of this block. -/
inductive CommandCode where
  /-- 0x01 -/
  | startMeasurement
  /-- 0x02 -/
  | stopMeasurement
  /-- 0x04 -/
  | readMeasurement
  /-- 0x08 -/
  | setAdjustmentCoefficient
  /-- 0x10 -/
  | readAdjustmentCoefficient
  /-- 0x20 -/
  | stopAutoSend
  /-- 0x40 -/
  | enableAutoSend
deriving DecidableEq, Repr

/-- The byte of a command code (R82). -/
def CommandCode.byte (c : CommandCode) : Byte :=
  match c with
  | .startMeasurement => 0x01
  | .stopMeasurement => 0x02
  | .readMeasurement => 0x04
  | .setAdjustmentCoefficient => 0x08
  | .readAdjustmentCoefficient => 0x10
  | .stopAutoSend => 0x20
  | .enableAutoSend => 0x40

/-- The outbound frame `68 01 CC KK` (R81). The block does not send it. -/
def outboundFrame (cc : Byte) : List Byte := [0x68, 0x01, cc, compute [0x68, 0x01, cc]]

/-- The inbound frame `40 LL CC payload KK` with its checksum byte right (R80). -/
def inboundFrame (cc : Byte) (payload : List Byte) : List Byte :=
  let head := (0x40 : Byte) :: BitVec.ofNat 8 (payload.length + 1) :: cc :: payload
  head ++ [compute head]

/-- The raw frame of step 6: `{length = L, command, payload, checksum}` (R139). -/
structure RawFrame where
  /-- L. -/
  length : Byte
  /-- The command byte. -/
  command : Byte
  /-- The L - 1 payload bytes. -/
  payload : List Byte
  /-- The received checksum byte. -/
  checksum : Byte
deriving DecidableEq, Repr

/-- Where the host finds each field of the raw frame in DONE (R139). -/
def rawFrame (s : State) : RawFrame :=
  { length := s.len, command := bufRead s 2,
    payload := (List.range (s.len.toNat - 1)).map (fun i => bufRead s (3 + i)),
    checksum := bufRead s (s.len.toNat + 2) }

/-- The result of a `readFrame` call as the host reads it (R168). -/
inductive FrameResult where
  /-- `fin = 0`: there is no result yet. -/
  | pending
  /-- DONE: the success payload length. -/
  | success (payloadLength : Nat)
  /-- ERROR: the typed failure. -/
  | failure (e : Err)
deriving DecidableEq, Repr

/-- R168: DONE is success with LEN - 1 payload bytes, ERROR is the failure named by ERR. -/
def frameResult (s : State) : FrameResult :=
  match s.st with
  | .idle => .pending
  | .sync => .pending
  | .settle => .pending
  | .lenwait => .pending
  | .body => .pending
  | .done => .success (s.len.toNat - 1)
  | .error => .failure s.err
  | .unused7 => .pending

end Sys2Proof.Machine
end

