-- ==== Sys2Proof/Machine/Transport.lean ====
section
/-! DEFINITION. The platform boundary (60_exceptions.md R222): the block together with a transport that keeps its
contract. It is no part of the block. Statements about byte sequences carry the contract by being about this pair
(70_reset_and_hazards.md R240; log 13). -/

namespace Sys2Proof.Machine

/-- What the agents other than the block and the transport choose in one cycle (00_scope.md R19), and the bytes that
reach the transport in it. -/
structure EnvCycle where
  /-- The reset source's choice. -/
  rst : Bool
  /-- The host's choice: a command is presented. -/
  cmdValid : Bool
  /-- The host's choice of command word. -/
  cmdWord : Word
  /-- The host's choice of read address. -/
  rdAddr : RdAddr
  /-- The time base's choice. -/
  tick : Bool
  /-- Bytes that arrive at the transport during the cycle, offered from the next one on. -/
  arrivals : List Byte
deriving DecidableEq, Repr

/-- The block, the transport's unread bytes (the oldest first), and the bytes the block has taken so far. -/
structure Line where
  /-- The block. -/
  block : State
  /-- The transport's unread bytes. -/
  pending : List Byte
  /-- The bytes taken, in order. -/
  taken : List Byte
deriving DecidableEq, Repr

/-- The inputs of a cycle: `rx_valid = 1` iff an unread byte is held, and `rx_data` is the oldest one (R222). With none
held `rx_data` is ignored (R37). -/
def lineInputs (e : EnvCycle) (pending : List Byte) : Inputs :=
  { rst := e.rst, cmdValid := e.cmdValid, cmdWord := e.cmdWord, rdAddr := e.rdAddr,
    rxValid := !pending.isEmpty, rxData := pending.headD 0, tick := e.tick }

/-- One cycle of the pair: on a fire the transport removes exactly the byte it offered, and else keeps it (R222). -/
def lineStep (e : EnvCycle) (l : Line) : Option Line :=
  match step { l.block with inputs := [lineInputs e l.pending] } with
  | .next t =>
    if (lineInputs e l.pending).rxValid && t.out.rxReady then
      some { block := t, pending := l.pending.tail ++ e.arrivals, taken := l.taken ++ l.pending.take 1 }
    else some { block := t, pending := l.pending ++ e.arrivals, taken := l.taken }
  | .fault _ => none
  | .refused _ => none

/-- The pair over several cycles. -/
def lineRun (es : List EnvCycle) (l : Line) : Option Line :=
  match es with
  | [] => some l
  | e :: rest =>
    match lineStep e l with
    | some m => lineRun rest m
    | none => none

end Sys2Proof.Machine
end

