-- ==== Sys2Proof/Safety.lean ====
section
/-! DEFINITION. The terms statements are made in: what a cycle does to the fields no phase rule speaks of, the invariants
of 10_state.md R39, and the bound of 60_exceptions.md R215. -/

namespace Sys2Proof.Machine

/-! ### What every cycle does -/

/-- The flags a command sets in a busy cycle, and nothing else: IGN for a legal command other than NOP (R164), ILL for an
illegal word (R165). -/
def withCommandFlags (c : Option Instr) (s : State) : State :=
  match c with
  | none => s
  | some .nop => s
  | some .start => { s with ign := true }
  | some (.tsync _) => { s with ign := true }
  | some (.maxpay _) => { s with ign := true }
  | some .rclr => { s with ign := true }
  | some (.radd _) => { s with ign := true }
  | some (.read _) => s
  | some (.illegal _) => { s with ill := true }

/-- The state `n` at the end of a cycle that began in `s`, with the model's own fields as the cycle leaves them: the
outputs of R36 recorded from `s`, and the cycle's inputs used up. -/
def endOfCycle (s n : State) : State :=
  { n with
    inputs := s.inputs.tail, cycle := s.cycle + 1,
    out := { rxReady := rxReady (currentInputs s).rst s, busy := busy s, fin := finished s,
             rdData := readPort s (currentInputs s).rdAddr } }

/-- The state at the start of the cycle with the flags its command sets in a busy cycle. -/
abbrev afterCommand (s : State) : State := withCommandFlags (fetchCommand (currentInputs s)) s

/-- `s` with `inp` as the inputs of the coming cycle. -/
def withInputs (s : State) (inp : Inputs) : State := { s with inputs := inp :: s.inputs.tail }

/-- BUF and BUF_CAP are as every instance has them: BUF_CAP in its bounds (R6), and BUF in canonical form. -/
abbrev BufferOk (s : State) : Prop := s.params.wf ∧ s.buf.wf s.params.bufCap = true

/-! ### The invariants of R39 -/

/-- Item 1: "ERR != NONE iff ST == ERROR". -/
abbrev InvError (s : State) : Prop := s.err ≠ .none ↔ s.st = .error

/-- Item 2: the sentinel is in BUF[0] from SETTLE on, and SETTLE and LENWAIT hold IDX = 1 and ACC = 0x40. -/
abbrev InvSentinel (s : State) : Prop :=
  ((s.st = .settle ∨ s.st = .lenwait ∨ s.st = .body ∨ s.st = .done) → bufRead s 0 = 0x40) ∧
  ((s.st = .settle ∨ s.st = .lenwait) → s.idx = 1 ∧ s.acc = 0x40)

/-- Item 3. The clause about MAXPAY is for BODY only: in DONE the host may write MAXPAY (R163; log 9). -/
abbrev InvLength (s : State) : Prop :=
  ((s.st = .body ∨ s.st = .done) →
    1 ≤ s.len.toNat ∧ s.len.toNat + 3 ≤ s.params.bufCap ∧ bufRead s 1 = s.len) ∧
  (s.st = .body → s.len.toNat ≤ s.maxpay.toNat + 1)

/-- Item 3 as R39 states it, DONE included. It holds until the host writes a smaller MAXPAY in DONE (log 9). -/
abbrev InvLengthStated (s : State) : Prop :=
  (s.st = .body ∨ s.st = .done) →
    1 ≤ s.len.toNat ∧ s.len.toNat + 3 ≤ s.params.bufCap ∧ s.len.toNat - 1 ≤ s.maxpay.toNat ∧ bufRead s 1 = s.len

/-- Items 4 and 7: where IDX can stand. -/
abbrev InvIndex (s : State) : Prop :=
  (s.st = .body → 2 ≤ s.idx.toNat ∧ s.idx.toNat ≤ s.len.toNat + 2) ∧
  (s.st = .done → s.idx.toNat = s.len.toNat + 3) ∧
  s.idx.toNat ≤ s.params.bufCap

/-- Item 5 while the frame runs: ACC is the sum of the stored bytes. In DONE the host may change ACC, so that DONE is the
matter of a statement of its own. -/
abbrev InvSum (s : State) : Prop :=
  (s.st = .settle ∨ s.st = .lenwait ∨ s.st = .body) →
    s.acc.toNat = sumBytes (s.buf.firstBytes s.idx.toNat) % 256

/-- Item 5 as R39 states it, DONE included. It holds until the host issues RCLR or RADD in DONE, as item 5 says. -/
abbrev InvSumStated (s : State) : Prop :=
  (s.st = .settle ∨ s.st = .lenwait ∨ s.st = .body ∨ s.st = .done) →
    s.acc.toNat = sumBytes (s.buf.firstBytes (min s.idx.toNat (s.len.toNat + 2))) % 256

/-- Item 6, and what R27 says of LEN: nothing is counted before the sentinel, and LEN is 0 until a length is taken. -/
abbrev InvSync (s : State) : Prop :=
  (s.st = .sync → s.idx = 0 ∧ s.acc = 0) ∧
  ((s.st = .sync ∨ s.st = .settle ∨ s.st = .lenwait) → s.len = 0)

/-- Item 8: in a busy state TMR has not passed the phase's limit. -/
abbrev InvTimer (s : State) : Prop :=
  (s.st = .sync → s.tmr ≤ s.tsync) ∧ (s.st = .settle → s.tmr ≤ s.params.tSettle) ∧
  (s.st = .lenwait → s.tmr ≤ s.params.tLen) ∧ (s.st = .body → s.tmr ≤ s.params.tBody)

/-- R21, R23: the codes no rule writes do not occur. -/
abbrev InvCodes (s : State) : Prop :=
  s.st ≠ .unused7 ∧ s.err ≠ .unused5 ∧ s.err ≠ .unused6 ∧ s.err ≠ .unused7

/-- The invariants of R39 together, for an instance with legal parameters. -/
abbrev Inv (s : State) : Prop :=
  BufferOk s ∧ InvCodes s ∧ InvError s ∧ InvSentinel s ∧ InvLength s ∧ InvIndex s ∧ InvSum s ∧ InvSync s ∧ InvTimer s

/-! ### How long a frame can take -/

/-- The ticks after which a frame begun in this state must have ended (R215), with one more for each tick that R207 item
5 does not count: those of the four phase changes, and in INTER_BYTE mode those of the stored bytes. -/
def frameTickBound (s : State) : Nat :=
  s.tsync.toNat + s.params.tSettle.toNat + s.params.tLen.toNat + 4 +
    match s.params.bodyMode with
    | .total => s.params.tBody.toNat
    | .interByte => (s.params.bufCap - 2) * (s.params.tBody.toNat + 1)

/-- The number of tick pulses in a list of cycles. -/
def tickCount (cs : List Inputs) : Nat := (cs.filter Inputs.tick).length

/-- The operands, in order, of the RADD commands among a list of cycles. -/
def raddOperands (cs : List Inputs) : List Byte :=
  match cs with
  | [] => []
  | c :: rest =>
    match fetchCommand c with
    | some (.radd b) => b :: raddOperands rest
    | _ => raddOperands rest

end Sys2Proof.Machine
end

