-- ==== Sys2Proof/WellFormed.lean ====
section
/-! DEFINITION. Which terms of `Instr` stand for something the host can present. -/

namespace Sys2Proof

/-- The operand widths are in the types (30_encoding.md R74), so one check is left: an `illegal` term holds a word that
no command of R73's match and mask list matches. -/
def Instr.wellFormed (i : Instr) : Bool :=
  match i with
  | .nop => true
  | .start => true
  | .tsync _ => true
  | .maxpay _ => true
  | .rclr => true
  | .radd _ => true
  | .read _ => true
  | .illegal w => !Machine.isCommandWord w

end Sys2Proof
end

