-- ==== Sys2Proof/Certificates/Slice0/Obligations.lean ====
section
/-! DEFINITION. The statements for the provers. Each docstring names the rule of spec/ it formalises, or says that the
statement is the model's own and names the log entry. -/

open Sys2Proof
open Sys2Proof.Machine

/-! ### Encoding -/

/-- Decoding what a well-formed operation is presented as gives the operation back: no bit of any operand is dropped
(30_encoding.md sections 1 to 3). -/
def Obligations.DecodeOfEncodeIsTheInstruction : Prop :=
  ∀ i : Instr, i.wellFormed = true → decode (encode i) = i

/-- Whatever stands on either port decodes to a well-formed operation, and encoding that operation gives the same bits
back: every word has one meaning. -/
def Obligations.EncodeOfDecodeIsTheWord : Prop :=
  ∀ p : PortWord, (decode p).wellFormed = true ∧ encode (decode p) = p

/-- The decode table, and the match and mask of each command; a word has at most one match, and none exactly when it is
ILLEGAL (30_encoding.md section 2, whose "No word matches two commands" the spec marks as its own inference). -/
def Obligations.DecodeFollowsTheTableAndTheMasks : Prop :=
  ∀ w : Word,
    let op := w.extractLsb' 28 4
    let rsv := w.extractLsb' 16 12
    let imm := w.extractLsb' 0 16
    (rsv ≠ 0 → decodeWord w = .illegal w) ∧
    (rsv = 0 → op = 0x0 → decodeWord w = if imm = 0 then .nop else .illegal w) ∧
    (rsv = 0 → op = 0x1 → decodeWord w = if imm = 0 then .start else .illegal w) ∧
    (rsv = 0 → op = 0x2 → decodeWord w = .tsync imm) ∧
    (rsv = 0 → op = 0x3 →
      decodeWord w = if imm.extractLsb' 8 8 = 0 then .maxpay (imm.extractLsb' 0 8) else .illegal w) ∧
    (rsv = 0 → op = 0x4 → decodeWord w = if imm = 0 then .rclr else .illegal w) ∧
    (rsv = 0 → op = 0x5 →
      decodeWord w = if imm.extractLsb' 8 8 = 0 then .radd (imm.extractLsb' 0 8) else .illegal w) ∧
    (rsv = 0 → 0x6 ≤ op.toNat → decodeWord w = .illegal w) ∧
    (decodeWord w = .nop ↔ w &&& 0xFFFFFFFF#32 = 0x00000000#32) ∧
    (decodeWord w = .start ↔ w &&& 0xFFFFFFFF#32 = 0x10000000#32) ∧
    ((∃ t, decodeWord w = .tsync t) ↔ w &&& 0xFFFF0000#32 = 0x20000000#32) ∧
    ((∃ m, decodeWord w = .maxpay m) ↔ w &&& 0xFFFFFF00#32 = 0x30000000#32) ∧
    (decodeWord w = .rclr ↔ w &&& 0xFFFFFFFF#32 = 0x40000000#32) ∧
    ((∃ b, decodeWord w = .radd b) ↔ w &&& 0xFFFFFF00#32 = 0x50000000#32) ∧
    (decodeWord w = .illegal w ↔ ∀ r ∈ opcodeRows, w &&& r.mask ≠ r.pattern) ∧
    (∀ r ∈ opcodeRows, ∀ q ∈ opcodeRows, w &&& r.mask = r.pattern → w &&& q.mask = q.pattern → r = q)

/-- R75 and R165: which words are ILLEGAL; such a word only sets ILL, in any state, and the receiver part of the cycle is
as without it; a word presented with `cmd_valid = 0` has no effect, whatever its bits. -/
def Obligations.IllegalWordsOnlySetIll : Prop :=
  (∀ w : Word,
    decodeWord w = .illegal w ↔
      0x6 ≤ (opField w).toNat ∨ rsvField w ≠ 0 ∨
      ((opField w = 0x0 ∨ opField w = 0x1 ∨ opField w = 0x4) ∧ immField w ≠ 0) ∨
      ((opField w = 0x3 ∨ opField w = 0x5) ∧ immHigh w ≠ 0)) ∧
  (∀ (s : State) (c : Inputs) (w : Word), c.rst = false → decodeWord w = .illegal w →
    ∃ t, step (withInputs s { c with cmdValid := false }) = .next t ∧
      step (withInputs s { c with cmdValid := true, cmdWord := w }) = .next { t with ill := true }) ∧
  (∀ (s : State) (c : Inputs) (w : Word),
    step (withInputs s { c with cmdValid := false, cmdWord := w }) =
      step (withInputs s { c with cmdValid := false }))

/-- Words written out from the encodings of R72 decode to the commands they stand for (vectors of 95_test_vectors.md
section 2.3). -/
def Obligations.WrittenOutWordsDecode : Prop :=
  decodeWord 0x00000000 = .nop ∧ decodeWord 0x10000000 = .start ∧ decodeWord 0x200001F4 = .tsync 500 ∧
  decodeWord 0x300000FF = .maxpay 255 ∧ decodeWord 0x40000000 = .rclr ∧ decodeWord 0x50000068 = .radd 0x68 ∧
  decodeWord 0x60000000 = .illegal 0x60000000 ∧ decodeWord 0x50000140 = .illegal 0x50000140 ∧
  decode (.rdAddr 0x102) = .read 0x102

/-- Every command, READ and raw-word line assembles to the word or address of its operation, and a line whose operand is
out of range is an assembly error (30_encoding.md section 4). A READ joined to a command line acts in the same cycle. A
pseudo-instruction stands for its lines, wherever it is issued. That lines are terms and that WAIT is lines of NOP are the
model's choices (log 15), and so is the cycle of its own that a READ line by itself has (log 16). -/
def Obligations.AssembledLinesDecodeToTheirOperations : Prop :=
  (∀ t : Nat, (assemble (.tsync t)).map decode =
    if t ≤ 0xFFFF then some (.tsync (BitVec.ofNat 16 t)) else none) ∧
  (∀ m : Nat, (assemble (.maxpay m)).map decode =
    if m ≤ 0xFF then some (.maxpay (BitVec.ofNat 8 m)) else none) ∧
  (∀ b : Nat, (assemble (.radd b)).map decode =
    if b ≤ 0xFF then some (.radd (BitVec.ofNat 8 b)) else none) ∧
  (assemble .nop).map decode = some .nop ∧ (assemble .start).map decode = some .start ∧
  (assemble .rclr).map decode = some .rclr ∧
  (∀ i : Nat, (assemble (.read (.buf i))).map decode =
    if i ≤ 0xFF then some (.read (BitVec.ofNat 9 (0x100 + i))) else none) ∧
  (∀ a : Nat, (assemble (.read (.addr a))).map decode =
    if a ≤ 0x1FF then some (.read (BitVec.ofNat 9 a)) else none) ∧
  ([ReadName.status, .len, .idx, .acc, .chk, .tmr, .tsync, .maxpay, .pBufcap, .pTsettle, .pTlen, .pTbody,
      .pBodymode].map (fun r => (assemble (.read r)).map decode) =
    [0x000, 0x001, 0x002, 0x003, 0x004, 0x005, 0x006, 0x007, 0x008, 0x009, 0x00A, 0x00B, 0x00C].map
      (fun a : RdAddr => some (.read a))) ∧
  (∀ w : Nat, (assemble (.word w)).map decode =
    if w < 2 ^ 32 then some (decodeWord (BitVec.ofNat 32 w)) else none) ∧
  (∀ (i : AsmLine) (r : ReadName) (w : Word), assemble i = some (.cmd w) → r.address ≤ 0x1FF →
    ∃ c, (ProgramLine.mk i (some r)).inputs = some c ∧ fetchCommand c = some (decodeWord w) ∧
      fetchRead c = .read (BitVec.ofNat 9 r.address)) ∧
  (∀ (i : AsmLine) (p : PortWord), assemble i = some p →
    ∃ c, i.alone.inputs = some c ∧ (∀ w, p = .cmd w → fetchCommand c = some (decodeWord w)) ∧
      (∀ a, p = .rdAddr a → fetchCommand c = none ∧ fetchRead c = .read a)) ∧
  (∀ (n fuel : Nat) (s : State), (((Pseudo.wait n).expand fuel s).bind (List.mapM assemble)).map (List.map decode) =
    some (List.replicate n .nop)) ∧
  (∀ (fuel : Nat) (s : State), ((Pseudo.poll.expand fuel s).bind (List.mapM assemble)).map (List.map decode) =
    (pollRun fuel s).map (fun r => List.replicate r.1 (.read 0x000))) ∧
  (∀ (bs : List Byte) (fuel : Nat) (s : State),
    (((Pseudo.csum (bs.map BitVec.toNat)).expand fuel s).bind (List.mapM assemble)).map (List.map decode) =
      some (.rclr :: bs.map Instr.radd)) ∧
  (∀ cc : Byte, (Pseudo.encode cc.toNat).expand = (Pseudo.csum [0x68, 0x01, cc.toNat]).expand)

/-! ### The operations: what each does, and that it completes -/

/-- R161: NOP writes nothing in any state; 0 is the only legal word with OP = 0; a cycle without a command is a cycle
with NOP. -/
def Obligations.NopWritesNothing : Prop :=
  (∀ s : State, exec .nop s = .next s) ∧
  (∀ w : Word, opField w = 0x0 → decodeWord w = if w = 0 then .nop else .illegal w) ∧
  (∀ (s : State) (c : Inputs),
    step (withInputs s { c with cmdValid := true, cmdWord := 0x00000000 }) =
      step (withInputs s { c with cmdValid := false }))

/-- R124: START, when not busy, begins a frame. Every field it does not name, BUF, TSYNC and MAXPAY among them, is
unchanged; nothing is consumed in its own cycle; with TSYNC = 0 the first SYNC cycle raises SYNC_TIMEOUT. -/
def Obligations.StartBeginsAFrame : Prop :=
  decodeWord 0x10000000 = .start ∧
  (∀ s : State, busy s = false →
    exec .start s = .next { s with st := .sync, err := .none, ign := false, ill := false, len := 0, idx := 0, acc := 0, tmr := 0 } ∧
    zeroFlag { s with acc := 0 } = true ∧ ∀ r, rxReady r s = false) ∧
  (∀ s : State, busy s = true → exec .start s = .next { s with ign := true }) ∧
  (∀ s : State, s.st = .sync → s.tsync = 0 → (currentInputs s).rst = false →
    ∃ t, step s = .next t ∧ t.st = .error ∧ t.err = .syncTimeout)

/-- R162: TSYNC t, when not busy, sets the sync timeout and nothing else. SYNC fails in the first cycle that starts with
TMR at that limit, at once for t = 0, and only at 65535 counted ticks for t = 0xFFFF. -/
def Obligations.TsyncSetsTheSyncTimeout : Prop :=
  (∀ t : Half, decodeWord (0x20000000#32 ||| t.zeroExtend 32) = .tsync t) ∧
  (∀ (s : State) (t : Half), busy s = false →
    exec (.tsync t) s = .next { s with tsync := t } ∧ readPort { s with tsync := t } 0x006 = t) ∧
  (∀ (s : State) (t : Half), busy s = true → exec (.tsync t) s = .next { s with ign := true }) ∧
  (∀ s : State, s.st = .sync → (currentInputs s).rst = false →
    ∃ u, step s = .next u ∧ (u.st = .error ↔ s.tsync.toNat ≤ s.tmr.toNat) ∧ (u.st = .error → u.err = .syncTimeout))

/-- R163: MAXPAY m, when not busy, sets the caller payload capacity and nothing else. A capacity of 0 admits only L = 1,
and one of 253 or more adds no limit beyond BUF_CAP. -/
def Obligations.MaxpaySetsTheCapacity : Prop :=
  (∀ m : Byte, decodeWord (0x30000000#32 ||| m.zeroExtend 32) = .maxpay m) ∧
  (∀ w : Word, opField w = 0x3 → immHigh w ≠ 0 → decodeWord w = .illegal w) ∧
  (∀ (s : State) (m : Byte), busy s = false → exec (.maxpay m) s = .next { s with maxpay := m }) ∧
  (∀ (s : State) (m : Byte), busy s = true → exec (.maxpay m) s = .next { s with ign := true }) ∧
  (∀ (p : Config.Params) (l : Byte), p.wf → (lenok p 0 l = true ↔ l = 1)) ∧
  (∀ (p : Config.Params) (m l : Byte), p.wf → 253 ≤ m.toNat →
    (lenok p m l = true ↔ 1 ≤ l.toNat ∧ l.toNat + 3 ≤ p.bufCap))

/-- R102: RCLR, when not busy, clears the accumulator and nothing else, so CHK is 0 and ZERO is 1. A malformed word is
ILLEGAL. -/
def Obligations.RclrClearsTheReducer : Prop :=
  decodeWord 0x40000000 = .rclr ∧
  (∀ w : Word, opField w = 0x4 → w ≠ 0x40000000 → decodeWord w = .illegal w) ∧
  (∀ s : State, busy s = false →
    exec .rclr s = .next { s with acc := 0 } ∧ chk { s with acc := 0 } = 0 ∧ zeroFlag { s with acc := 0 } = true) ∧
  (∀ s : State, busy s = true → exec .rclr s = .next { s with ign := true })

/-- R103: RADD b, when not busy, adds b modulo 256 to the accumulator and changes nothing else; ZERO and CHK follow. Where
ACC is the sum of a frame's bytes, adding its checksum byte gives ZERO = 1 exactly when that byte is right. -/
def Obligations.RaddAddsAByte : Prop :=
  (∀ b : Byte, decodeWord (0x50000000#32 ||| b.zeroExtend 32) = .radd b) ∧
  (∀ w : Word, opField w = 0x5 → immHigh w ≠ 0 → decodeWord w = .illegal w) ∧
  (∀ (s : State) (b : Byte), busy s = false →
    ∃ t, exec (.radd b) s = .next t ∧ t = { s with acc := t.acc } ∧
      t.acc.toNat = (s.acc.toNat + b.toNat) % 256 ∧
      (zeroFlag t = true ↔ (s.acc.toNat + b.toNat) % 256 = 0) ∧
      (chk t).toNat = (256 - (s.acc.toNat + b.toNat) % 256) % 256 ∧
      (b = neg8 s.acc → t.acc = 0) ∧
      (∀ bs : List Byte, s.acc.toNat = sumBytes bs % 256 → (zeroFlag t = true ↔ b = compute bs))) ∧
  (∀ (s : State) (b : Byte), busy s = true → exec (.radd b) s = .next { s with ign := true })

/-- READ a shows READ(s, a) on the read port and changes no state of the block: only the model's record of `rd_data`
(log 5) differs. -/
def Obligations.ReadShowsTheValueAndChangesNothing : Prop :=
  ∀ (s : State) (a : RdAddr), exec (.read a) s = .next { s with out := { s.out with rdData := readPort s a } }

/-- An illegal word sets ILL and changes nothing else, in any state (42_config_and_access.md section 3). -/
def Obligations.IllegalSetsIllAndNothingElse : Prop :=
  ∀ (s : State) (w : Word), exec (.illegal w) s = .next { s with ill := true }

/-- R164: a legal command other than NOP has no effect while busy except to set IGN. -/
def Obligations.CommandsWhileBusyOnlySetIgn : Prop :=
  ∀ s : State, busy s = true →
    exec .start s = .next { s with ign := true } ∧
    (∀ t, exec (.tsync t) s = .next { s with ign := true }) ∧
    (∀ m, exec (.maxpay m) s = .next { s with ign := true }) ∧
    exec .rclr s = .next { s with ign := true } ∧
    (∀ b, exec (.radd b) s = .next { s with ign := true })

/-! ### The step -/

/-- A step runs the decoded operations: the READ of the cycle, and, unless the cycle is a reset cycle, the command
presented; then the receiver, if the block was busy, or the reset; then the model's record of the cycle (log 5, 10). -/
def Obligations.StepRunsTheDecodedOperations : Prop :=
  ∀ s : State, ∃ r, exec (decode (.rdAddr (currentInputs s).rdAddr)) s = .next r ∧
    ((currentInputs s).rst = true → step s = .next (closeCycle (currentInputs s) s (resetBlock r))) ∧
    ((currentInputs s).rst = false → (currentInputs s).cmdValid = false →
      step s = .next (closeCycle (currentInputs s) s (if busy s then receive (currentInputs s) s r else r))) ∧
    ((currentInputs s).rst = false → (currentInputs s).cmdValid = true →
      ∃ n, exec (decode (.cmd (currentInputs s).cmdWord)) r = .next n ∧
        step s = .next (closeCycle (currentInputs s) s (if busy s then receive (currentInputs s) s n else n)))

/-- The model's own (log 2, log 10): the instruction `State.withFetchWord` presents is the one the next cycle fetches, on
the command port for 32 bits and on the read port for the 9 bits of `rd_addr`, and nothing of the block is changed. -/
def Obligations.PresentedInstructionIsFetchedNext : Prop :=
  ∀ (s : State) (w : Nat),
    (w < 2 ^ 32 →
      fetchCommand (currentInputs (s.withFetchWord 32 w)) = decodeTableWord 32 w ∧
      decodeTableWord 32 w = some (decodeWord (BitVec.ofNat 32 w)) ∧
      { s.withFetchWord 32 w with inputs := s.inputs } = s) ∧
    (w < 512 →
      some (fetchRead (currentInputs (s.withFetchWord 9 w))) = decodeTableWord 9 w ∧
      fetchCommand (currentInputs (s.withFetchWord 9 w)) = none ∧
      decodeTableWord 9 w = some (.read (BitVec.ofNat 9 w)) ∧
      { s.withFetchWord 9 w with inputs := s.inputs } = s)

/-- The step is defined for every state and every combination of inputs, and no step writes the parameters of the
instance (10_state.md section 9; log 3). -/
def Obligations.EveryStepCompletesAndKeepsTheParameters : Prop :=
  ∀ s : State, ∃ t, step s = .next t ∧ t.params = s.params ∧ t.inputs = s.inputs.tail ∧ t.cycle = s.cycle + 1

/-- R230: a reset cycle loads the reset values and leaves BUF, whatever the other inputs; `rx_ready` is 0 and `rd_data`
shows the state before the reset; a second reset cycle changes nothing more of the block. -/
def Obligations.ResetCycleLoadsTheResetValues : Prop :=
  ∀ s : State, (currentInputs s).rst = true →
    ∃ t, step s = .next t ∧
      t = endOfCycle s { s with st := .idle, err := .none, ign := false, ill := false, len := 0, idx := 0, acc := 0, tmr := 0, tsync := 0, maxpay := 0 } ∧
      t.out.rxReady = false ∧ t.out.rdData = readPort s (currentInputs s).rdAddr ∧
      ((currentInputs t).rst = true → step t = .next (endOfCycle t t))

/-- R120: the transitions, and no others. -/
def Obligations.ControlMovesOnlyAlongTheTransitions : Prop :=
  ∀ s : State, s.st ≠ .unused7 → (s.st = .body → s.idx.toNat ≤ s.len.toNat + 2) →
    ∃ t, step s = .next t ∧
      ((currentInputs s).rst = true → t.st = .idle) ∧
      ((currentInputs s).rst = false →
        (busy s = false → t.st = if fetchCommand (currentInputs s) = some .start then .sync else s.st) ∧
        (s.st = .sync →
          if s.tsync ≤ s.tmr then t.st = .error ∧ t.err = .syncTimeout
          else if (currentInputs s).rxValid = true ∧ (currentInputs s).rxData = 0x40 then t.st = .settle
          else t.st = .sync) ∧
        (s.st = .settle → t.st = if s.params.tSettle ≤ s.tmr then .lenwait else .settle) ∧
        (s.st = .lenwait →
          if s.params.tLen ≤ s.tmr then t.st = .error ∧ t.err = .lengthTimeout
          else if (currentInputs s).rxValid = false then t.st = .lenwait
          else if lenok s.params s.maxpay (currentInputs s).rxData = true then t.st = .body
          else t.st = .error ∧ t.err = .invalidLength) ∧
        (s.st = .body →
          if s.params.tBody ≤ s.tmr then t.st = .error ∧ t.err = .shortRead
          else if (currentInputs s).rxValid = false ∨ s.idx.toNat < s.len.toNat + 2 then t.st = .body
          else t.st = .done))

/-- Which cycles can change each field (10_state.md section 12). -/
def Obligations.EachFieldHasOnlyItsWriters : Prop :=
  ∀ s : State, (currentInputs s).rst = false → ∃ t, step s = .next t ∧
    (t.tsync ≠ s.tsync → busy s = false ∧ ∃ v, fetchCommand (currentInputs s) = some (.tsync v) ∧ t.tsync = v) ∧
    (t.maxpay ≠ s.maxpay → busy s = false ∧ ∃ v, fetchCommand (currentInputs s) = some (.maxpay v) ∧ t.maxpay = v) ∧
    ((t.st ≠ s.st ∨ t.err ≠ s.err ∨ t.len ≠ s.len ∨ t.idx ≠ s.idx ∨ t.tmr ≠ s.tmr) →
      busy s = true ∨ fetchCommand (currentInputs s) = some .start) ∧
    (t.acc ≠ s.acc → busy s = true ∨ fetchCommand (currentInputs s) = some .start ∨
      fetchCommand (currentInputs s) = some .rclr ∨ ∃ b, fetchCommand (currentInputs s) = some (.radd b)) ∧
    ((t.len ≠ s.len ∨ t.idx ≠ s.idx ∨ t.acc ≠ s.acc) → busy s = true → fire (currentInputs s) s = true) ∧
    (t.buf ≠ s.buf → busy s = true ∧ fire (currentInputs s) s = true) ∧
    (t.ign ≠ s.ign →
      (busy s = false ∧ fetchCommand (currentInputs s) = some .start ∧ t.ign = false) ∨
      (busy s = true ∧ t.ign = true ∧
        ∃ i, fetchCommand (currentInputs s) = some i ∧ i ≠ .nop ∧ ∀ w, i ≠ .illegal w)) ∧
    (t.ill ≠ s.ill →
      (busy s = false ∧ fetchCommand (currentInputs s) = some .start ∧ t.ill = false) ∨
      (t.ill = true ∧ ∃ w, fetchCommand (currentInputs s) = some (.illegal w)))

/-- R24: IGN is set in any cycle where a legal command other than NOP arrives while busy, cleared only by an accepted
START and by reset, read by the host in STATUS bit 8, and no command reads it. -/
def Obligations.IgnIsSticky : Prop :=
  (∀ s : State, ∃ t, step s = .next t ∧
    t.ign = if (currentInputs s).rst then false
      else match fetchCommand (currentInputs s) with
        | some .start => busy s
        | some (.tsync _) => s.ign || busy s
        | some (.maxpay _) => s.ign || busy s
        | some .rclr => s.ign || busy s
        | some (.radd _) => s.ign || busy s
        | some .nop => s.ign
        | some (.read _) => s.ign
        | some (.illegal _) => s.ign
        | none => s.ign) ∧
  (∀ s : State, (readPort s 0x000).getLsbD 8 = s.ign) ∧
  (∀ (i : Instr) (s : State) (b : Bool), (∀ a, i ≠ .read a) →
    ∃ t u, exec i s = .next t ∧ exec i { s with ign := b } = .next u ∧ { u with ign := t.ign } = t)

/-- R25: ILL is set in any cycle where an illegal word is presented, cleared only by an accepted START and by reset, and
read by the host in STATUS bit 9. -/
def Obligations.IllIsSticky : Prop :=
  (∀ s : State, ∃ t, step s = .next t ∧
    t.ill = if (currentInputs s).rst then false
      else if (currentInputs s).cmdValid = true ∧
          decodeWord (currentInputs s).cmdWord = .illegal (currentInputs s).cmdWord then true
      else if fetchCommand (currentInputs s) = some .start ∧ busy s = false then false
      else s.ill) ∧
  (∀ s : State, (readPort s 0x000).getLsbD 9 = s.ill)

/-- R31: every change of TMR. A timer at 0xFFFF stays there. -/
def Obligations.TimerCountsTicksOfThePhase : Prop :=
  ∀ s : State, ∃ t, step s = .next t ∧
    ((currentInputs s).rst = true → t.tmr = 0) ∧
    ((currentInputs s).rst = false → busy s = false →
      t.tmr = if fetchCommand (currentInputs s) = some .start then 0 else s.tmr) ∧
    ((currentInputs s).rst = false → busy s = true →
      (t.st ≠ s.st → (t.st = .settle ∨ t.st = .lenwait ∨ t.st = .body) → t.tmr = 0) ∧
      (t.st ≠ s.st → (t.st = .done ∨ t.st = .error) → t.tmr = s.tmr) ∧
      (t.st = s.st →
        if s.st = .body ∧ s.params.bodyMode = .interByte ∧ fire (currentInputs s) s = true ∧
            s.idx.toNat < s.len.toNat + 2 then t.tmr = 0
        else if (currentInputs s).tick then t.tmr.toNat = min (s.tmr.toNat + 1) 0xFFFF
        else t.tmr = s.tmr))

/-! ### The read port and the outputs -/

/-- R35: STATUS, field by field, at read address 0x000, with the numbers R21 and R23 give. -/
def Obligations.StatusShowsItsFields : Prop :=
  ∀ s : State,
    readPort s 0x000 = status s ∧
    (status s).extractLsb' 0 3 = (match s.st with
      | .idle => 0 | .sync => 1 | .settle => 2 | .lenwait => 3 | .body => 4 | .done => 5 | .error => 6 | .unused7 => 7) ∧
    (status s).getLsbD 3 = false ∧
    (status s).extractLsb' 4 3 = (match s.err with
      | .none => 0 | .syncTimeout => 1 | .lengthTimeout => 2 | .invalidLength => 3 | .shortRead => 4
      | .unused5 => 5 | .unused6 => 6 | .unused7 => 7) ∧
    (status s).getLsbD 7 = false ∧ (status s).getLsbD 8 = s.ign ∧ (status s).getLsbD 9 = s.ill ∧
    (status s).getLsbD 10 = (s.acc == 0) ∧
    (status s).getLsbD 11 = (s.st == .sync || s.st == .settle || s.st == .lenwait || s.st == .body) ∧
    (status s).getLsbD 12 = (s.st == .done || s.st == .error) ∧
    (status s).extractLsb' 13 3 = 0

/-- The value at every address of the read-address space: the named and the reserved addresses, and the BUF window of
R52. -/
def Obligations.ReadPortFollowsTheAddressMap : Prop :=
  ∀ s : State,
    readPort s 0x000 = status s ∧ (readPort s 0x001).toNat = s.len.toNat ∧ (readPort s 0x002).toNat = s.idx.toNat ∧
    (readPort s 0x003).toNat = s.acc.toNat ∧ (readPort s 0x004).toNat = (256 - s.acc.toNat) % 256 ∧
    readPort s 0x005 = s.tmr ∧ readPort s 0x006 = s.tsync ∧ (readPort s 0x007).toNat = s.maxpay.toNat ∧
    (s.params.wf → (readPort s 0x008).toNat = s.params.bufCap) ∧ readPort s 0x009 = s.params.tSettle ∧
    readPort s 0x00A = s.params.tLen ∧ readPort s 0x00B = s.params.tBody ∧
    readPort s 0x00C = (if s.params.bodyMode = .interByte then 1 else 0) ∧
    (∀ a : RdAddr, 0x00D ≤ a.toNat → a.toNat ≤ 0x0FF → readPort s a = 0) ∧
    (∀ a : RdAddr, 0x100 ≤ a.toNat →
      (readPort s a).toNat =
        if a.toNat - 0x100 < s.params.bufCap then (bufRead s (a.toNat - 0x100)).toNat else 0)

/-- R166: in every cycle, a reset cycle too, `rd_data` is READ of the state at the start of the cycle, and the address
read has no other effect. -/
def Obligations.ReadingHasNoSideEffect : Prop :=
  ∀ (s : State) (c : Inputs) (a : RdAddr),
    ∃ t, step (withInputs s c) = .next t ∧ t.out.rdData = readPort s c.rdAddr ∧
      step (withInputs s { c with rdAddr := a }) = .next { t with out := { t.out with rdData := readPort s a } }

/-- R36: what the outputs show in a cycle, from the state at its start, `rst` and `rd_addr` alone. -/
def Obligations.OutputsFollowTheState : Prop :=
  ∀ s : State, ∃ t, step s = .next t ∧
    (t.out.rxReady = true ↔ (currentInputs s).rst = false ∧
      ((s.st = .sync ∧ s.tmr < s.tsync) ∨ (s.st = .lenwait ∧ s.tmr < s.params.tLen) ∨
        (s.st = .body ∧ s.tmr < s.params.tBody))) ∧
    (t.out.busy = true ↔ s.st = .sync ∨ s.st = .settle ∨ s.st = .lenwait ∨ s.st = .body) ∧
    (t.out.fin = true ↔ s.st = .done ∨ s.st = .error) ∧
    t.out.rdData = readPort s (currentInputs s).rdAddr

/-- Inputs the spec says are ignored change nothing: the command word without `cmd_valid`, the byte without `rx_valid`,
an offered byte while `rx_ready` is 0, and in a reset cycle every input but `rd_addr` (10_state.md sections 9 and 10). -/
def Obligations.IgnoredInputsChangeNothing : Prop :=
  ∀ (s : State) (c : Inputs),
    (∀ w, c.cmdValid = false → step (withInputs s { c with cmdWord := w }) = step (withInputs s c)) ∧
    (∀ b, c.rxValid = false → step (withInputs s { c with rxData := b }) = step (withInputs s c)) ∧
    (∀ v b, rxReady c.rst s = false →
      step (withInputs s { c with rxValid := v, rxData := b }) = step (withInputs s c)) ∧
    (∀ d : Inputs, c.rst = true → d.rst = true → d.rdAddr = c.rdAddr →
      step (withInputs s d) = step (withInputs s c))

/-! ### The receiver, phase by phase -/

/-- R201: what raising each of the four errors writes: ST and ERR, and for INVALID_LENGTH the offending length. No byte is
consumed except that length byte, and after a timeout TMR is the phase's limit. `fin` shows from the next cycle on. -/
def Obligations.RaisingAnErrorIsPrecise : Prop :=
  (Err.syncTimeout.code = 1 ∧ Err.lengthTimeout.code = 2 ∧ Err.invalidLength.code = 3 ∧ Err.shortRead.code = 4) ∧
  (∀ u : State, u.st = .error → ∃ v, step u = .next v ∧ v.out.fin = true) ∧
  ∀ s : State, (currentInputs s).rst = false →
    (s.st = .sync → s.tsync ≤ s.tmr →
      step s = .next (endOfCycle s { afterCommand s with st := .error, err := .syncTimeout }) ∧
      rxReady false s = false ∧ (InvTimer s → s.tmr = s.tsync)) ∧
    (s.st = .lenwait → s.params.tLen ≤ s.tmr →
      step s = .next (endOfCycle s { afterCommand s with st := .error, err := .lengthTimeout }) ∧
      rxReady false s = false ∧ (InvTimer s → s.tmr = s.params.tLen)) ∧
    (s.st = .body → s.params.tBody ≤ s.tmr →
      step s = .next (endOfCycle s { afterCommand s with st := .error, err := .shortRead }) ∧
      rxReady false s = false ∧ (InvTimer s → s.tmr = s.params.tBody)) ∧
    (s.st = .lenwait → s.tmr < s.params.tLen → (currentInputs s).rxValid = true →
      lenok s.params s.maxpay (currentInputs s).rxData = false →
      step s = .next (endOfCycle s { afterCommand s with st := .error, err := .invalidLength, len := (currentInputs s).rxData }) ∧
      rxReady false s = true)

/-- R126: the sentinel, offered in SYNC before the limit, is stored in BUF[0], added and counted, and SETTLE begins. -/
def Obligations.SentinelIsAccepted : Prop :=
  ∀ s : State, BufferOk s → (currentInputs s).rst = false → s.st = .sync → s.tmr < s.tsync →
    (currentInputs s).rxValid = true → (currentInputs s).rxData = 0x40 →
    ∃ m : Memory,
      step s = .next (endOfCycle s { afterCommand s with st := .settle, buf := m, acc := s.acc + 0x40, idx := 1, tmr := 0 }) ∧
      (∀ i, m.read i = if i = 0 then 0x40 else bufRead s i) ∧ (InvSync s → s.acc + 0x40 = 0x40) ∧
      rxReady false s = true

/-- R129: SETTLE consumes nothing, and ends in the first cycle that starts with TMR at T_SETTLE or more. -/
def Obligations.SettleWaitsAndThenLooksForTheLength : Prop :=
  ∀ s : State, (currentInputs s).rst = false → s.st = .settle →
    rxReady false s = false ∧
    (s.params.tSettle ≤ s.tmr → step s = .next (endOfCycle s { afterCommand s with st := .lenwait, tmr := 0 })) ∧
    (s.tmr < s.params.tSettle → (currentInputs s).tick = false → step s = .next (endOfCycle s (afterCommand s))) ∧
    (s.tmr < s.params.tSettle → (currentInputs s).tick = true →
      step s = .next (endOfCycle s { afterCommand s with tmr := s.tmr + 1 }))

/-- R132: a length that passes the three clauses of the length check is stored in LEN and BUF[1], added and counted, and
BODY begins. The sum is then 0 only for the length 0xC0. -/
def Obligations.ValidLengthIsAccepted : Prop :=
  ∀ s : State, BufferOk s → (currentInputs s).rst = false → s.st = .lenwait → s.tmr < s.params.tLen →
    (currentInputs s).rxValid = true →
    1 ≤ (currentInputs s).rxData.toNat → (currentInputs s).rxData.toNat + 1 ≤ s.params.bufCap - 2 →
    (currentInputs s).rxData.toNat - 1 ≤ s.maxpay.toNat →
    ∃ m : Memory,
      step s = .next (endOfCycle s { afterCommand s with st := .body, buf := m, len := (currentInputs s).rxData, acc := s.acc + (currentInputs s).rxData, idx := 2, tmr := 0 }) ∧
      (∀ i, m.read i = if i = 1 then (currentInputs s).rxData else bufRead s i) ∧ rxReady false s = true ∧
      (InvSentinel s → (s.acc + (currentInputs s).rxData = 0 ↔ (currentInputs s).rxData = 0xC0)) ∧
      ((currentInputs s).rxData = 0xC0 → 195 ≤ s.params.bufCap ∧ 191 ≤ s.maxpay.toNat)

/-- R131: the length check on unbounded integers, that its middle clause is `L + 3 <= BUF_CAP`, and that a length taken in
LENWAIT that fails any clause is INVALID_LENGTH, and no other is. -/
def Obligations.LengthCheckHasThreeClauses : Prop :=
  (∀ (p : Config.Params) (m l : Byte),
    (lenok p m l = true ↔
      (l.toNat : Int) ≥ 1 ∧ (l.toNat : Int) + 1 ≤ (p.bufCap : Int) - 2 ∧ (l.toNat : Int) - 1 ≤ (m.toNat : Int)) ∧
    ((l.toNat : Int) + 1 ≤ (p.bufCap : Int) - 2 ↔ l.toNat + 3 ≤ p.bufCap) ∧
    ((l.toNat : Int) ≥ 1 → (l.toNat : Int) - 1 ≥ 0) ∧ l.toNat + 3 ≤ 258) ∧
  (∀ s : State, (currentInputs s).rst = false → s.st = .lenwait → s.tmr < s.params.tLen →
    (currentInputs s).rxValid = true →
    ∃ t, step s = .next t ∧
      ((t.st = .error ∧ t.err = .invalidLength) ↔ lenok s.params s.maxpay (currentInputs s).rxData = false) ∧
      (t.st = .body ↔ lenok s.params s.maxpay (currentInputs s).rxData = true))

/-- R136: a command or payload byte is stored at IDX, added and counted; TMR restarts in INTER_BYTE mode and goes on in
TOTAL mode. -/
def Obligations.BodyByteIsStoredAndAdded : Prop :=
  ∀ s : State, BufferOk s → (currentInputs s).rst = false → s.st = .body → s.tmr < s.params.tBody →
    (currentInputs s).rxValid = true → s.idx.toNat < s.len.toNat + 2 → s.len.toNat + 3 ≤ s.params.bufCap →
    ∃ (m : Memory) (k : Half),
      step s = .next (endOfCycle s { afterCommand s with buf := m, acc := s.acc + (currentInputs s).rxData, idx := s.idx + 1, tmr := k }) ∧
      (∀ i, m.read i = if i = s.idx.toNat then (currentInputs s).rxData else bufRead s i) ∧
      (s.params.bodyMode = .interByte → k = 0) ∧
      (s.params.bodyMode = .total → k.toNat = if (currentInputs s).tick then s.tmr.toNat + 1 else s.tmr.toNat) ∧
      rxReady false s = true

/-- R137: the checksum byte is stored at IDX and counted but not added, TMR is held, and the frame is DONE. -/
def Obligations.ChecksumByteCompletesTheFrame : Prop :=
  ∀ s : State, BufferOk s → (currentInputs s).rst = false → s.st = .body → s.tmr < s.params.tBody →
    (currentInputs s).rxValid = true → s.idx.toNat = s.len.toNat + 2 → s.len.toNat + 3 ≤ s.params.bufCap →
    ∃ m : Memory,
      step s = .next (endOfCycle s { afterCommand s with st := .done, buf := m, idx := s.idx + 1 }) ∧
      (s.idx + 1).toNat = s.len.toNat + 3 ∧
      (∀ i, m.read i = if i = s.idx.toNat then (currentInputs s).rxData else bufRead s i) ∧
      rxReady false s = true

/-- R127, R128, R134 and R138: before its limit, a phase that takes no byte, and SYNC when it discards one, counts the
tick if there is one and changes nothing else; the byte is consumed, because `rx_ready` is 1. -/
def Obligations.WaitingPhasesOnlyCountTheTick : Prop :=
  ∀ s : State, (currentInputs s).rst = false →
    ((s.st = .sync ∧ s.tmr < s.tsync ∧ (currentInputs s).rxValid = true ∧ (currentInputs s).rxData ≠ 0x40) ∨
     (s.st = .sync ∧ s.tmr < s.tsync ∧ (currentInputs s).rxValid = false) ∨
     (s.st = .lenwait ∧ s.tmr < s.params.tLen ∧ (currentInputs s).rxValid = false) ∨
     (s.st = .body ∧ s.tmr < s.params.tBody ∧ (currentInputs s).rxValid = false)) →
    ((currentInputs s).tick = false → step s = .next (endOfCycle s (afterCommand s))) ∧
    ((currentInputs s).tick = true → step s = .next (endOfCycle s { afterCommand s with tmr := s.tmr + 1 })) ∧
    rxReady false s = true

/-- R140 and R141: in IDLE, DONE and ERROR nothing is consumed and TMR is frozen; without a command, or with NOP, nothing
of the block changes; BUF never changes; IDLE is left only by an accepted START, and reset apart, so are DONE and ERROR. -/
def Obligations.FinishedAndIdleStatesHold : Prop :=
  ∀ s : State, (s.st = .idle ∨ s.st = .done ∨ s.st = .error) → (currentInputs s).rst = false →
    rxReady false s = false ∧
    ∃ t, step s = .next t ∧ t.buf = s.buf ∧
      ((fetchCommand (currentInputs s) = none ∨ fetchCommand (currentInputs s) = some .nop) → t = endOfCycle s s) ∧
      (fetchCommand (currentInputs s) = some .start → t.st = .sync) ∧
      (fetchCommand (currentInputs s) ≠ some .start →
        t.st = s.st ∧ t.err = s.err ∧ t.len = s.len ∧ t.idx = s.idx ∧ t.tmr = s.tmr)

/-- The degenerate settings (70_reset_and_hazards.md section 3, "Degenerate settings, each legal", the spec's own
inference). -/
def Obligations.DegenerateSettingsFailAtOnce : Prop :=
  (∀ (s : State) (c d : Inputs) (rest : List Inputs), s.inputs = c :: d :: rest → busy s = false → s.tsync = 0 →
    c.rst = false → fetchCommand c = some .start → d.rst = false →
    ∃ t, Host.Core.run Sys2Proof.core 2 s = .next t ∧ State.st t = .error ∧ State.err t = .syncTimeout) ∧
  (∀ s : State, (currentInputs s).rst = false → s.st = .lenwait → s.params.tLen = 0 →
    ∃ t, step s = .next t ∧ t.st = .error ∧ t.err = .lengthTimeout) ∧
  (∀ s : State, (currentInputs s).rst = false → s.st = .body → s.params.tBody = 0 → s.idx = 2 →
    ∃ t, step s = .next t ∧ t.st = .error ∧ t.err = .shortRead ∧ t.idx = 2) ∧
  (∀ (p : Config.Params) (l : Byte), p.wf → (lenok p 0 l = true ↔ l = 1)) ∧
  (∀ (p : Config.Params) (m l : Byte), p.bufCap = 4 → (lenok p m l = true ↔ l = 1))

/-! ### Invariants -/

/-- The canonical form of BUF is kept by every step, from any state at all. -/
def Obligations.BufferStaysCanonical : Prop :=
  ∀ s : State, s.buf.wf s.params.bufCap = true →
    ∃ t, step s = .next t ∧ t.buf.wf t.params.bufCap = true

/-- Every step keeps the invariants of 10_state.md section 10 (item 3 as log 9 reads it), from every state that has them. -/
def Obligations.EveryStepKeepsTheInvariants : Prop :=
  ∀ s : State, Inv s → ∃ t, step s = .next t ∧ Inv t

/-- The invariants hold of the state right after reset. -/
def Obligations.ResetStateHasTheInvariants : Prop := Inv State.reset

/-- A reset cycle brings any power-on draw of the registers and of BUF into the invariants. -/
def Obligations.ResetEstablishesTheInvariants : Prop :=
  ∀ s : State, BufferOk s → (currentInputs s).rst = true → ∃ t, step s = .next t ∧ Inv t

/-- Within the invariants BUF changes only by a fire, only at IDX, and only inside the buffer (10_state.md section 7,
20_memory.md section 6). -/
def Obligations.BufferChangesOnlyAtIdx : Prop :=
  ∀ s : State, Inv s → ∃ t, step s = .next t ∧
    ∀ i, bufRead t i ≠ bufRead s i →
      i = s.idx.toNat ∧ i < s.params.bufCap ∧ fire (currentInputs s) s = true ∧
      bufRead t i = (currentInputs s).rxData

/-- What each error records in the cycle that raises it (60_exceptions.md section 1, "What SYNC_TIMEOUT records" and the
three after it, the spec's own inferences). -/
def Obligations.ErrorsRecordWhatHappened : Prop :=
  ∀ s : State, Inv s → busy s = true → (currentInputs s).rst = false →
    ∃ t, step s = .next t ∧ (t.st = .error →
      (t.err = .syncTimeout ∧ t.err.code = 1 ∧ t.tmr = t.tsync ∧ t.idx = 0 ∧ t.len = 0 ∧ t.acc = 0 ∧ t.buf = s.buf) ∨
      (t.err = .lengthTimeout ∧ t.err.code = 2 ∧ t.tmr = t.params.tLen ∧ t.idx = 1 ∧ t.len = 0 ∧ t.acc = 0x40 ∧
        bufRead t 0 = 0x40) ∨
      (t.err = .invalidLength ∧ t.err.code = 3 ∧ t.len = (currentInputs s).rxData ∧ t.idx = 1 ∧ t.acc = 0x40 ∧
        bufRead t 0 = 0x40 ∧ bufRead t 1 = bufRead s 1 ∧ t.tmr < t.params.tLen ∧
        lenok t.params t.maxpay t.len = false) ∨
      (t.err = .shortRead ∧ t.err.code = 4 ∧ t.tmr = t.params.tBody ∧ t.len = s.len ∧
        2 ≤ t.idx.toNat ∧ t.idx.toNat ≤ t.len.toNat + 2 ∧
        t.acc.toNat = sumBytes (t.buf.firstBytes t.idx.toNat) % 256))

/-- A frame that reaches DONE lies in BUF as the layout of 10_state.md section 7 says, and ACC and CHK are the sum and the
checksum of every byte but the last (40_checksum_reducer.md section 3). -/
def Obligations.DoneHoldsTheFrameAndItsChecksum : Prop :=
  ∀ s : State, Inv s → (currentInputs s).rst = false → s.st = .body → s.tmr < s.params.tBody →
    (currentInputs s).rxValid = true → s.idx.toNat = s.len.toNat + 2 →
    ∃ t, step s = .next t ∧ t.st = .done ∧ t.idx.toNat = t.len.toNat + 3 ∧ t.len = s.len ∧
      bufRead t 0 = 0x40 ∧ bufRead t 1 = t.len ∧ bufRead t (t.len.toNat + 2) = (currentInputs s).rxData ∧
      (∀ i, i < t.len.toNat + 2 → bufRead t i = bufRead s i) ∧
      t.acc.toNat = sumBytes (t.buf.firstBytes (t.len.toNat + 2)) % 256 ∧
      chk t = compute (t.buf.firstBytes (t.len.toNat + 2)) ∧
      rawFrame t = { length := t.len, command := bufRead t 2,
                     payload := (List.range (t.len.toNat - 1)).map (fun i => bufRead t (i + 3)),
                     checksum := (currentInputs s).rxData } ∧
      frameResult t = .success (t.len.toNat - 1)

/-! ### The reducer -/

/-- RCLR and then RADDs, in consecutive cycles while not busy, with NOPs and idle cycles anywhere between, leave the
sum in ACC and `compute` in CHK; the order of the bytes does not matter (40_checksum_reducer.md section 3, "After the
command sequence", the spec's own inference). -/
def Obligations.CsumSequenceComputesTheChecksum : Prop :=
  (∀ (s : State) (c : Inputs) (cs rest : List Inputs),
    busy s = false → s.inputs = c :: (cs ++ rest) → c.rst = false → fetchCommand c = some .rclr →
    (∀ d ∈ cs, d.rst = false ∧
      (fetchCommand d = none ∨ fetchCommand d = some .nop ∨ ∃ b, fetchCommand d = some (.radd b))) →
    ∃ t, Host.Core.run Sys2Proof.core (cs.length + 1) s = .next t ∧
      (State.acc t).toNat = sumBytes (raddOperands cs) % 256 ∧ chk t = compute (raddOperands cs) ∧
      State.st t = s.st ∧ State.buf t = s.buf) ∧
  (∀ bs bs' : List Byte, bs.Perm bs' → compute bs = compute bs')

/-- The laws of `compute` (40_checksum_reducer.md section 3, "For every byte sequence B", the spec's own inference). -/
def Obligations.ChecksumLaws : Prop :=
  (∀ bs : List Byte, (sumBytes bs + (compute bs).toNat) % 256 = 0) ∧
  (∀ (s : State) (bs : List Byte), busy s = false → s.acc.toNat = sumBytes bs % 256 →
    ∃ t, exec (.radd (chk s)) s = .next t ∧ t.acc = 0 ∧ zeroFlag t = true) ∧
  (∀ bs : List Byte, compute (bs ++ [0x00]) = compute bs) ∧
  (∀ b : Byte, compute (List.replicate 256 b) = 0) ∧
  (∀ bs bs' : List Byte, bs.Perm bs' → compute bs = compute bs') ∧
  (∀ (pre post : List Byte) (b d : Byte),
    compute (pre ++ (b + d) :: post) = compute (pre ++ b :: post) - d ∧
    (d ≠ 0 → compute (pre ++ (b + d) :: post) ≠ compute (pre ++ b :: post))) ∧
  (∀ (pre mid post : List Byte) (a b d : Byte),
    compute (pre ++ (a + d) :: mid ++ (b - d) :: post) = compute (pre ++ a :: mid ++ b :: post))

/-- R100: `compute`, its alternative form, and the empty sum. -/
def Obligations.ComputeHasTwoEqualForms : Prop :=
  compute [] = 0 ∧
  ∀ bs : List Byte,
    ((compute bs).toNat : Int) = (256 - (sumBytes bs : Int) % 256) % 256 ∧
    ((compute bs).toNat : Int) = (65536 - (sumBytes bs : Int)) % 256

/-- The outbound frame of every command code ends in the checksum byte the formula gives, and the seven frames are those
listed (30_encoding.md section 6, 40_checksum_reducer.md section 3, "Outbound use", the spec's own inference). -/
def Obligations.OutboundFramesAreThoseOfTheTable : Prop :=
  (∀ cc : Byte, (outboundFrame cc).length = 4 ∧
    outboundFrame cc = [0x68, 0x01, cc, BitVec.ofNat 8 ((256 - (0x69 + cc.toNat) % 256) % 256)] ∧
    sumBytes (outboundFrame cc) % 256 = 0) ∧
  outboundFrame CommandCode.startMeasurement.byte = [0x68, 0x01, 0x01, 0x96] ∧
  outboundFrame CommandCode.stopMeasurement.byte = [0x68, 0x01, 0x02, 0x95] ∧
  outboundFrame CommandCode.readMeasurement.byte = [0x68, 0x01, 0x04, 0x93] ∧
  outboundFrame CommandCode.setAdjustmentCoefficient.byte = [0x68, 0x01, 0x08, 0x8F] ∧
  outboundFrame CommandCode.readAdjustmentCoefficient.byte = [0x68, 0x01, 0x10, 0x87] ∧
  outboundFrame CommandCode.stopAutoSend.byte = [0x68, 0x01, 0x20, 0x77] ∧
  outboundFrame CommandCode.enableAutoSend.byte = [0x68, 0x01, 0x40, 0x57]

/-- When ACC holds the sum of a frame's bytes before its checksum byte b, RADD b gives ZERO = 1 exactly when CHK is b,
which is when the frame's checksum is right (40_checksum_reducer.md section 3). -/
def Obligations.AddingTheChecksumTestsTheFrame : Prop :=
  ∀ (s : State) (bs : List Byte) (b : Byte), busy s = false → s.acc.toNat = sumBytes bs % 256 →
    chk s = compute bs ∧ ∃ t, exec (.radd b) s = .next t ∧ (zeroFlag t = true ↔ b = compute bs)

/-! ### Whole frames -/

/-- The transport order (20_memory.md section 5), for the model's own pair of the block and a transport that keeps its
contract (log 13). The block uses the byte on `rx_data` in a fire cycle, and in any other cycle no byte has a part in the
step. The pair takes bytes in the order they arrive, at most one a cycle, none skipped or repeated, and a byte not taken
stays at the head. -/
def Obligations.BytesAreTakenInOrder : Prop :=
  (∀ (s : State) (c : Inputs), fire c s = true →
    ∃ t, step (withInputs s c) = .next t ∧
      (s.st = .sync → (t.st = .settle ↔ c.rxData = 0x40)) ∧
      (s.st = .lenwait → t.len = c.rxData) ∧
      (s.st = .body → Inv s → bufRead t s.idx.toNat = c.rxData)) ∧
  (∀ (s : State) (c : Inputs) (b : Byte), fire c s = false →
    step (withInputs s { c with rxData := b }) = step (withInputs s c)) ∧
  (∀ (e : EnvCycle) (l : Line), ∃ m, lineStep e l = some m ∧
    step { l.block with inputs := [lineInputs e l.pending] } = .next m.block ∧
    ((fire (lineInputs e l.pending) l.block = true ∧
        ∃ b, (lineInputs e l.pending).rxData = b ∧ l.pending = b :: l.pending.tail ∧ m.taken = l.taken ++ [b] ∧ m.pending = l.pending.tail ++ e.arrivals) ∨
     (fire (lineInputs e l.pending) l.block = false ∧ m.taken = l.taken ∧ m.pending = l.pending ++ e.arrivals))) ∧
  (∀ (es : List EnvCycle) (l : Line), ∃ m, lineRun es l = some m ∧
    m.taken ++ m.pending = l.taken ++ l.pending ++ (es.map EnvCycle.arrivals).flatten)

/-- For the model's own pair of the block and a transport that keeps its contract (log 13): how a frame that ran without
a reset ends is decided by the bytes it took (41_frame_reader.md section 8, "Bytes consumed from the transport by one
frame", the spec's own inference). With g the garbage before the sentinel: SYNC_TIMEOUT took g bytes, LENGTH_TIMEOUT g +
1, INVALID_LENGTH g + 2, SHORT_READ g + IDX and DONE g + L + 3; and BUF holds the bytes taken from the sentinel on. -/
def Obligations.FrameOutcomeFollowsTheBytesTaken : Prop :=
  ∀ (es : List EnvCycle) (l m : Line), Inv l.block → l.block.st = .sync → l.taken = [] →
    (∀ e ∈ es, e.rst = false) → lineRun es l = some m → finished m.block = true →
    (∀ k n, k < es.length → lineRun (es.take k) l = some n → busy n.block = true) →
    ∃ g : List Byte, (0x40 : Byte) ∉ g ∧
      ((m.block.st = .error ∧ m.block.err = .syncTimeout ∧ m.taken = g ∧ m.taken.length = g.length) ∨
       (m.block.st = .error ∧ m.block.err = .lengthTimeout ∧ m.taken = g ++ [0x40] ∧
          m.taken.length = g.length + 1) ∨
       (m.block.st = .error ∧ m.block.err = .invalidLength ∧ m.taken = g ++ [0x40, m.block.len] ∧
          lenok m.block.params m.block.maxpay m.block.len = false ∧ m.taken.length = g.length + 2) ∨
       (m.block.st = .error ∧ m.block.err = .shortRead ∧
          m.taken = g ++ m.block.buf.firstBytes m.block.idx.toNat ∧
          bufRead m.block 0 = 0x40 ∧ bufRead m.block 1 = m.block.len ∧
          lenok m.block.params m.block.maxpay m.block.len = true ∧
          m.block.idx.toNat < m.block.len.toNat + 3 ∧ m.taken.length = g.length + m.block.idx.toNat) ∨
       (m.block.st = .done ∧
          m.taken = g ++ m.block.buf.firstBytes (m.block.len.toNat + 3) ∧
          bufRead m.block 0 = 0x40 ∧ bufRead m.block 1 = m.block.len ∧
          lenok m.block.params m.block.maxpay m.block.len = true ∧
          m.block.idx.toNat = m.block.len.toNat + 3 ∧
          m.block.acc.toNat = sumBytes (m.block.buf.firstBytes (m.block.len.toNat + 2)) % 256 ∧
          m.taken.length = g.length + m.block.len.toNat + 3))

/-- For the model's own pair of the block and a transport that keeps its contract (log 13): a frame offered back to
back, with a tick in every cycle and no limit too short for it (T_BODY above L in TOTAL mode, above 0 in INTER_BYTE
mode), is DONE after exactly g + 1 cycles of SYNC, T_SETTLE + 1 of SETTLE, 1 of LENWAIT and L + 1 of BODY, with its
bytes in BUF and its sum in ACC, whatever the host does meanwhile (41_frame_reader.md section 8, 70_reset_and_hazards.md
section 4). -/
def Obligations.OfferedFrameReachesDone : Prop :=
  ∀ (es : List EnvCycle) (l : Line) (g body rest : List Byte) (len : Byte),
    Inv l.block → l.block.st = .sync → l.block.tmr = 0 → l.pending = g ++ 0x40 :: len :: body ++ rest →
    (0x40 : Byte) ∉ g → lenok l.block.params l.block.maxpay len = true → body.length = len.toNat + 1 →
    g.length < l.block.tsync.toNat → 0 < l.block.params.tLen.toNat →
    (l.block.params.bodyMode = .total → len.toNat < l.block.params.tBody.toNat) →
    (l.block.params.bodyMode = .interByte → 0 < l.block.params.tBody.toNat) →
    (∀ e ∈ es, e.rst = false ∧ e.tick = true) →
    es.length = (g.length + 1) + (l.block.params.tSettle.toNat + 1) + 1 + (len.toNat + 1) →
    ∃ m, lineRun es l = some m ∧ m.block.st = .done ∧ m.block.err = .none ∧ m.block.len = len ∧
      m.block.idx.toNat = len.toNat + 3 ∧
      m.block.buf.firstBytes (len.toNat + 3) = 0x40 :: len :: body ∧
      m.block.acc.toNat = sumBytes (0x40 :: len :: body.dropLast) % 256 ∧
      chk m.block = compute (0x40 :: len :: body.dropLast) ∧
      m.pending = rest ++ (es.map EnvCycle.arrivals).flatten

/-- The worst case of 60_exceptions.md section 6 ("The worst-case duration of one frame", the spec's own inference): a
frame that is not reset is finished by the time the tick pulses exceed the limits of its phases, counting the ticks a
phase change or a restart of the timer does not count (`frameTickBound`). -/
def Obligations.EveryFrameEndsWithinItsTicks : Prop :=
  ∀ (s : State) (cs rest : List Inputs), Inv s → s.st = .sync → s.inputs = cs ++ rest →
    (∀ c ∈ cs, c.rst = false) → frameTickBound s ≤ tickCount cs →
    ∃ (k : Nat) (t : State), k ≤ cs.length ∧ Host.Core.run Sys2Proof.core k s = .next t ∧ finished t = true

/-! ### The two invariants the host can end -/

/-- R39 items 3 and 5 in their own words, DONE included: they hold after reset, every step keeps them with the other
invariants, and in DONE item 3 ends only with a MAXPAY command that sets less than LEN - 1, item 5 only with RCLR or RADD
(10_state.md section 10, the spec's own inference). Item 5 names that end itself. For item 3 the model follows R163 (log
9). -/
def Obligations.StatedItemsHoldUntilTheHostWrites : Prop :=
  (InvLengthStated State.reset ∧ InvSumStated State.reset) ∧
  ∀ s : State, Inv s → ∃ t, step s = .next t ∧ Inv t ∧
    (InvLengthStated s →
      (s.st = .done → ∀ m, fetchCommand (currentInputs s) = some (.maxpay m) → s.len.toNat - 1 ≤ m.toNat) →
      InvLengthStated t) ∧
    (InvSumStated s →
      (s.st = .done → fetchCommand (currentInputs s) ≠ some .rclr ∧
        ∀ b, fetchCommand (currentInputs s) ≠ some (.radd b)) →
      InvSumStated t) ∧
    (s.st = .body → InvLengthStated t ∧ InvSumStated t)

/-! ### Waiting for a frame -/

/-- POLL reads STATUS once a cycle and ends with the first READ that shows FIN = 1 (30_encoding.md section 4): all its
READs before the last show a state that is not finished, the last one a state that is. It goes on for as long as no state
is finished, and during a frame that is not reset it ends by the cycle after the ticks of `frameTickBound` (60_exceptions.md
section 6, "The worst-case duration of one frame", the spec's own inference). -/
def Obligations.PollEndsWithTheFirstReadThatShowsFin : Prop :=
  (∀ (fuel n : Nat) (s t : State), pollRun fuel s = some (n, t) →
    1 ≤ n ∧ n ≤ fuel ∧
    ∃ u : Nat → State, u 0 = s ∧ u n = t ∧
      ∀ k, k < n → step (pollNext (u k)) = .next (u (k + 1)) ∧ (u (k + 1)).out.rdData = status (u k) ∧
        (finished (u k) = true ↔ k + 1 = n)) ∧
  (∀ (fuel : Nat) (s : State), pollRun fuel s = none →
    ∃ u : Nat → State, u 0 = s ∧
      ∀ k, k < fuel → step (pollNext (u k)) = .next (u (k + 1)) ∧ finished (u k) = false) ∧
  (∀ (fuel : Nat) (s : State) (cs rest : List Inputs), Inv s → s.st = .sync → s.inputs = cs ++ rest →
    (∀ c ∈ cs, c.rst = false) → frameTickBound s ≤ tickCount cs → cs.length < fuel →
    ∃ n t, pollRun fuel s = some (n, t))
end

