-- ==== Sys2Proof/Laws/Memory.lean ====
section
/-! SUPPORT. The laws of BUF: a read after a write, and the canonical form every write keeps. -/

namespace Sys2Proof.Machine

@[simp] theorem Memory.read_nil (i : Nat) : Memory.read [] i = Config.bufUnlisted := rfl

theorem Memory.read_cons (a : Nat) (b : Byte) (m : Memory) (i : Nat) :
    Memory.read ((a, b) :: m) i = if a = i then b else Memory.read m i := rfl

theorem Memory.wfFrom_cons {low cap a : Nat} {b : Byte} {m : Memory} :
    Memory.wfFrom low cap ((a, b) :: m) = true ↔
      low ≤ a ∧ a < cap ∧ b ≠ Config.bufUnlisted ∧ Memory.wfFrom (a + 1) cap m = true := by
  simp [Memory.wfFrom, and_assoc]

theorem Memory.wfFrom_mono {low low' cap : Nat} {m : Memory} (hl : low' ≤ low)
    (h : Memory.wfFrom low cap m = true) : Memory.wfFrom low' cap m = true := by
  cases m with
  | nil => rfl
  | cons c m =>
    obtain ⟨a, b⟩ := c
    rw [Memory.wfFrom_cons] at h ⊢
    exact ⟨hl.trans h.1, h.2⟩

/-- Below every listed index a canonical buffer reads as unlisted. -/
theorem Memory.read_below {low cap : Nat} {m : Memory} (h : Memory.wfFrom low cap m = true) {i : Nat}
    (hi : i < low) : m.read i = Config.bufUnlisted := by
  induction m generalizing low with
  | nil => rfl
  | cons c m ih =>
    obtain ⟨a, b⟩ := c
    rw [Memory.wfFrom_cons] at h
    rw [Memory.read_cons, if_neg (by omega)]
    exact ih h.2.2.2 (by omega)

theorem Memory.read_write_from {low cap : Nat} {m : Memory} (h : Memory.wfFrom low cap m = true) (i j : Nat)
    (v : Byte) : (m.write i v).read j = if j = i then v else m.read j := by
  induction m generalizing low with
  | nil =>
    by_cases hv : v = Config.bufUnlisted
    · simp [Memory.write, hv]
    · simp only [Memory.write, if_neg hv, Memory.read_cons, eq_comm]
  | cons c m ih =>
    obtain ⟨a, b⟩ := c
    rw [Memory.wfFrom_cons] at h
    have below := Memory.read_below h.2.2.2 (i := i)
    by_cases h1 : i < a
    · by_cases hv : v = Config.bufUnlisted
      · simp only [Memory.write, if_pos h1, if_pos hv]
        by_cases hj : j = i
        · rw [if_pos hj, hj, Memory.read_cons, if_neg (by omega), below (by omega), hv]
        · rw [if_neg hj]
      · simp only [Memory.write, if_pos h1, if_neg hv]
        rw [Memory.read_cons]
        simp only [eq_comm]
    · by_cases h2 : a = i
      · subst h2
        by_cases hv : v = Config.bufUnlisted
        · simp only [Memory.write, if_neg h1, if_pos hv, if_true]
          by_cases hj : j = a
          · rw [if_pos hj, hj, below (by omega), hv]
          · rw [if_neg hj, Memory.read_cons, if_neg (fun e => hj e.symm)]
        · simp only [Memory.write, if_neg h1, if_neg hv, if_true]
          rw [Memory.read_cons, Memory.read_cons]
          by_cases hj : j = a
          · rw [if_pos hj.symm, if_pos hj]
          · rw [if_neg (fun e => hj e.symm), if_neg hj, if_neg (fun e => hj e.symm)]
      · simp only [Memory.write, if_neg h1, if_neg h2]
        rw [Memory.read_cons, Memory.read_cons, ih h.2.2.2]
        by_cases hj : j = i
        · rw [hj, if_neg h2, if_pos rfl, if_pos rfl]
        · rw [if_neg hj, if_neg hj]

/-- A read after a write gives the value written at that index, and what was there at every other. -/
theorem Memory.read_write {cap : Nat} {m : Memory} (h : m.wf cap = true) (i j : Nat) (v : Byte) :
    (m.write i v).read j = if j = i then v else m.read j :=
  Memory.read_write_from h i j v

theorem Memory.wfFrom_write {low cap : Nat} {m : Memory} (h : Memory.wfFrom low cap m = true) {i : Nat}
    (hl : low ≤ i) (hc : i < cap) (v : Byte) : Memory.wfFrom low cap (m.write i v) = true := by
  induction m generalizing low with
  | nil =>
    by_cases hv : v = Config.bufUnlisted
    · simp [Memory.write, hv, Memory.wfFrom]
    · simp [Memory.write, hv, Memory.wfFrom, hl, hc]
  | cons c m ih =>
    obtain ⟨a, b⟩ := c
    have h0 := h
    rw [Memory.wfFrom_cons] at h
    unfold Memory.write
    split_ifs with h1 hv h2 hv2
    · exact h0
    · rw [Memory.wfFrom_cons, Memory.wfFrom_cons]; exact ⟨hl, hc, hv, by omega, h.2⟩
    · exact Memory.wfFrom_mono (by omega) h.2.2.2
    · subst h2; rw [Memory.wfFrom_cons]; exact ⟨h.1, h.2.1, hv2, h.2.2.2⟩
    · rw [Memory.wfFrom_cons]; exact ⟨h.1, h.2.1, h.2.2.1, ih h.2.2.2 (by omega)⟩

/-- A write inside the buffer keeps the canonical form. -/
theorem Memory.wf_write {cap : Nat} {m : Memory} (h : m.wf cap = true) {i : Nat} (hi : i < cap) (v : Byte) :
    (m.write i v).wf cap = true :=
  Memory.wfFrom_write h (Nat.zero_le i) hi v

/-- Canonical buffers that read alike are equal, so equal buffers are equal data. -/
theorem Memory.ext_of_wfFrom {low cap : Nat} {m m' : Memory} (h : Memory.wfFrom low cap m = true)
    (h' : Memory.wfFrom low cap m' = true) (hr : ∀ i, m.read i = m'.read i) : m = m' := by
  induction m generalizing low m' with
  | nil =>
    cases m' with
    | nil => rfl
    | cons c m' =>
      obtain ⟨a, b⟩ := c
      rw [Memory.wfFrom_cons] at h'
      exact absurd (by simpa [Memory.read_cons] using (hr a).symm) h'.2.2.1
  | cons c m ih =>
    obtain ⟨a, b⟩ := c
    rw [Memory.wfFrom_cons] at h
    cases m' with
    | nil => exact absurd (by simpa [Memory.read_cons] using hr a) h.2.2.1
    | cons c' m' =>
      obtain ⟨a', b'⟩ := c'
      rw [Memory.wfFrom_cons] at h'
      have ha : a = a' := by
        rcases Nat.lt_trichotomy a a' with hlt | heq | hgt
        · have := hr a
          rw [Memory.read_cons, if_pos rfl, Memory.read_cons, if_neg (by omega),
            Memory.read_below h'.2.2.2 (by omega)] at this
          exact absurd this h.2.2.1
        · exact heq
        · have := hr a'
          rw [Memory.read_cons, if_neg (by omega), Memory.read_below h.2.2.2 (by omega), Memory.read_cons,
            if_pos rfl] at this
          exact absurd this.symm h'.2.2.1
      subst ha
      have hb : b = b' := by simpa [Memory.read_cons] using hr a
      subst hb
      have hm : m = m' := by
        refine ih h.2.2.2 h'.2.2.2 (fun i => ?_)
        by_cases hi : a = i
        · subst hi
          rw [Memory.read_below h.2.2.2 (by omega), Memory.read_below h'.2.2.2 (by omega)]
        · simpa [Memory.read_cons, hi] using hr i
      rw [hm]

theorem Memory.firstBytes_length (m : Memory) (n : Nat) : (m.firstBytes n).length = n := by
  simp [Memory.firstBytes]

theorem Memory.firstBytes_succ (m : Memory) (n : Nat) : m.firstBytes (n + 1) = m.firstBytes n ++ [m.read n] := by
  simp [Memory.firstBytes, List.range_succ]

theorem Memory.firstBytes_congr {m m' : Memory} {n : Nat} (h : ∀ i < n, m.read i = m'.read i) :
    m.firstBytes n = m'.firstBytes n := by
  simp only [Memory.firstBytes, List.map_inj_left, List.mem_range]
  exact h

end Sys2Proof.Machine
end

