-- ==== Sys2Proof/Laws/State.lean ====
section
/-! SUPPORT. What each named update leaves in each field: one lemma per field per update, true by unfolding once. -/

namespace Sys2Proof.Machine

/-! ### raiseError -/

@[simp] theorem raiseError_st (e : Err) (n : State) : (raiseError e n).st = .error := rfl
@[simp] theorem raiseError_err (e : Err) (n : State) : (raiseError e n).err = e := rfl
@[simp] theorem raiseError_ign (e : Err) (n : State) : (raiseError e n).ign = n.ign := rfl
@[simp] theorem raiseError_ill (e : Err) (n : State) : (raiseError e n).ill = n.ill := rfl
@[simp] theorem raiseError_len (e : Err) (n : State) : (raiseError e n).len = n.len := rfl
@[simp] theorem raiseError_idx (e : Err) (n : State) : (raiseError e n).idx = n.idx := rfl
@[simp] theorem raiseError_acc (e : Err) (n : State) : (raiseError e n).acc = n.acc := rfl
@[simp] theorem raiseError_tmr (e : Err) (n : State) : (raiseError e n).tmr = n.tmr := rfl
@[simp] theorem raiseError_tsync (e : Err) (n : State) : (raiseError e n).tsync = n.tsync := rfl
@[simp] theorem raiseError_maxpay (e : Err) (n : State) : (raiseError e n).maxpay = n.maxpay := rfl
@[simp] theorem raiseError_buf (e : Err) (n : State) : (raiseError e n).buf = n.buf := rfl
@[simp] theorem raiseError_params (e : Err) (n : State) : (raiseError e n).params = n.params := rfl
@[simp] theorem raiseError_inputs (e : Err) (n : State) : (raiseError e n).inputs = n.inputs := rfl
@[simp] theorem raiseError_cycle (e : Err) (n : State) : (raiseError e n).cycle = n.cycle := rfl
@[simp] theorem raiseError_out (e : Err) (n : State) : (raiseError e n).out = n.out := rfl

/-! ### startFrame -/

@[simp] theorem startFrame_st (s : State) : (startFrame s).st = .sync := rfl
@[simp] theorem startFrame_err (s : State) : (startFrame s).err = .none := rfl
@[simp] theorem startFrame_ign (s : State) : (startFrame s).ign = false := rfl
@[simp] theorem startFrame_ill (s : State) : (startFrame s).ill = false := rfl
@[simp] theorem startFrame_len (s : State) : (startFrame s).len = 0 := rfl
@[simp] theorem startFrame_idx (s : State) : (startFrame s).idx = 0 := rfl
@[simp] theorem startFrame_acc (s : State) : (startFrame s).acc = 0 := rfl
@[simp] theorem startFrame_tmr (s : State) : (startFrame s).tmr = 0 := rfl
@[simp] theorem startFrame_tsync (s : State) : (startFrame s).tsync = s.tsync := rfl
@[simp] theorem startFrame_maxpay (s : State) : (startFrame s).maxpay = s.maxpay := rfl
@[simp] theorem startFrame_buf (s : State) : (startFrame s).buf = s.buf := rfl
@[simp] theorem startFrame_params (s : State) : (startFrame s).params = s.params := rfl
@[simp] theorem startFrame_inputs (s : State) : (startFrame s).inputs = s.inputs := rfl
@[simp] theorem startFrame_cycle (s : State) : (startFrame s).cycle = s.cycle := rfl
@[simp] theorem startFrame_out (s : State) : (startFrame s).out = s.out := rfl

/-! ### resetBlock -/

@[simp] theorem resetBlock_st (s : State) : (resetBlock s).st = .idle := rfl
@[simp] theorem resetBlock_err (s : State) : (resetBlock s).err = .none := rfl
@[simp] theorem resetBlock_ign (s : State) : (resetBlock s).ign = false := rfl
@[simp] theorem resetBlock_ill (s : State) : (resetBlock s).ill = false := rfl
@[simp] theorem resetBlock_len (s : State) : (resetBlock s).len = 0 := rfl
@[simp] theorem resetBlock_idx (s : State) : (resetBlock s).idx = 0 := rfl
@[simp] theorem resetBlock_acc (s : State) : (resetBlock s).acc = 0 := rfl
@[simp] theorem resetBlock_tmr (s : State) : (resetBlock s).tmr = 0 := rfl
@[simp] theorem resetBlock_tsync (s : State) : (resetBlock s).tsync = 0 := rfl
@[simp] theorem resetBlock_maxpay (s : State) : (resetBlock s).maxpay = 0 := rfl
@[simp] theorem resetBlock_buf (s : State) : (resetBlock s).buf = s.buf := rfl
@[simp] theorem resetBlock_params (s : State) : (resetBlock s).params = s.params := rfl
@[simp] theorem resetBlock_inputs (s : State) : (resetBlock s).inputs = s.inputs := rfl
@[simp] theorem resetBlock_cycle (s : State) : (resetBlock s).cycle = s.cycle := rfl
@[simp] theorem resetBlock_out (s : State) : (resetBlock s).out = s.out := rfl

/-! ### bufWrite -/

@[simp] theorem bufWrite_st (n : State) (i : Nat) (v : Byte) : (bufWrite n i v).st = n.st := rfl
@[simp] theorem bufWrite_err (n : State) (i : Nat) (v : Byte) : (bufWrite n i v).err = n.err := rfl
@[simp] theorem bufWrite_ign (n : State) (i : Nat) (v : Byte) : (bufWrite n i v).ign = n.ign := rfl
@[simp] theorem bufWrite_ill (n : State) (i : Nat) (v : Byte) : (bufWrite n i v).ill = n.ill := rfl
@[simp] theorem bufWrite_len (n : State) (i : Nat) (v : Byte) : (bufWrite n i v).len = n.len := rfl
@[simp] theorem bufWrite_idx (n : State) (i : Nat) (v : Byte) : (bufWrite n i v).idx = n.idx := rfl
@[simp] theorem bufWrite_acc (n : State) (i : Nat) (v : Byte) : (bufWrite n i v).acc = n.acc := rfl
@[simp] theorem bufWrite_tmr (n : State) (i : Nat) (v : Byte) : (bufWrite n i v).tmr = n.tmr := rfl
@[simp] theorem bufWrite_tsync (n : State) (i : Nat) (v : Byte) : (bufWrite n i v).tsync = n.tsync := rfl
@[simp] theorem bufWrite_maxpay (n : State) (i : Nat) (v : Byte) : (bufWrite n i v).maxpay = n.maxpay := rfl
@[simp] theorem bufWrite_buf (n : State) (i : Nat) (v : Byte) : (bufWrite n i v).buf = storedBuffer n i v := rfl
@[simp] theorem bufWrite_params (n : State) (i : Nat) (v : Byte) : (bufWrite n i v).params = n.params := rfl
@[simp] theorem bufWrite_inputs (n : State) (i : Nat) (v : Byte) : (bufWrite n i v).inputs = n.inputs := rfl
@[simp] theorem bufWrite_cycle (n : State) (i : Nat) (v : Byte) : (bufWrite n i v).cycle = n.cycle := rfl
@[simp] theorem bufWrite_out (n : State) (i : Nat) (v : Byte) : (bufWrite n i v).out = n.out := rfl

/-! ### countTick -/

@[simp] theorem countTick_st (k : Bool) (s n : State) : (countTick k s n).st = n.st := rfl
@[simp] theorem countTick_err (k : Bool) (s n : State) : (countTick k s n).err = n.err := rfl
@[simp] theorem countTick_ign (k : Bool) (s n : State) : (countTick k s n).ign = n.ign := rfl
@[simp] theorem countTick_ill (k : Bool) (s n : State) : (countTick k s n).ill = n.ill := rfl
@[simp] theorem countTick_len (k : Bool) (s n : State) : (countTick k s n).len = n.len := rfl
@[simp] theorem countTick_idx (k : Bool) (s n : State) : (countTick k s n).idx = n.idx := rfl
@[simp] theorem countTick_acc (k : Bool) (s n : State) : (countTick k s n).acc = n.acc := rfl
@[simp] theorem countTick_tmr (k : Bool) (s n : State) : (countTick k s n).tmr = tinc k s.tmr := rfl
@[simp] theorem countTick_tsync (k : Bool) (s n : State) : (countTick k s n).tsync = n.tsync := rfl
@[simp] theorem countTick_maxpay (k : Bool) (s n : State) : (countTick k s n).maxpay = n.maxpay := rfl
@[simp] theorem countTick_buf (k : Bool) (s n : State) : (countTick k s n).buf = n.buf := rfl
@[simp] theorem countTick_params (k : Bool) (s n : State) : (countTick k s n).params = n.params := rfl
@[simp] theorem countTick_inputs (k : Bool) (s n : State) : (countTick k s n).inputs = n.inputs := rfl
@[simp] theorem countTick_cycle (k : Bool) (s n : State) : (countTick k s n).cycle = n.cycle := rfl
@[simp] theorem countTick_out (k : Bool) (s n : State) : (countTick k s n).out = n.out := rfl

/-! ### acceptSentinel -/

@[simp] theorem acceptSentinel_st (s n : State) : (acceptSentinel s n).st = .settle := rfl
@[simp] theorem acceptSentinel_err (s n : State) : (acceptSentinel s n).err = n.err := rfl
@[simp] theorem acceptSentinel_ign (s n : State) : (acceptSentinel s n).ign = n.ign := rfl
@[simp] theorem acceptSentinel_ill (s n : State) : (acceptSentinel s n).ill = n.ill := rfl
@[simp] theorem acceptSentinel_len (s n : State) : (acceptSentinel s n).len = n.len := rfl
@[simp] theorem acceptSentinel_idx (s n : State) : (acceptSentinel s n).idx = 1 := rfl
@[simp] theorem acceptSentinel_acc (s n : State) : (acceptSentinel s n).acc = addMod256 s.acc sentinel := rfl
@[simp] theorem acceptSentinel_tmr (s n : State) : (acceptSentinel s n).tmr = 0 := rfl
@[simp] theorem acceptSentinel_tsync (s n : State) : (acceptSentinel s n).tsync = n.tsync := rfl
@[simp] theorem acceptSentinel_maxpay (s n : State) : (acceptSentinel s n).maxpay = n.maxpay := rfl
@[simp] theorem acceptSentinel_buf (s n : State) : (acceptSentinel s n).buf = storedBuffer n 0 sentinel := rfl
@[simp] theorem acceptSentinel_params (s n : State) : (acceptSentinel s n).params = n.params := rfl
@[simp] theorem acceptSentinel_inputs (s n : State) : (acceptSentinel s n).inputs = n.inputs := rfl
@[simp] theorem acceptSentinel_cycle (s n : State) : (acceptSentinel s n).cycle = n.cycle := rfl
@[simp] theorem acceptSentinel_out (s n : State) : (acceptSentinel s n).out = n.out := rfl

/-! ### acceptLength -/

@[simp] theorem acceptLength_st (l : Byte) (s n : State) : (acceptLength l s n).st = .body := rfl
@[simp] theorem acceptLength_err (l : Byte) (s n : State) : (acceptLength l s n).err = n.err := rfl
@[simp] theorem acceptLength_ign (l : Byte) (s n : State) : (acceptLength l s n).ign = n.ign := rfl
@[simp] theorem acceptLength_ill (l : Byte) (s n : State) : (acceptLength l s n).ill = n.ill := rfl
@[simp] theorem acceptLength_len (l : Byte) (s n : State) : (acceptLength l s n).len = l := rfl
@[simp] theorem acceptLength_idx (l : Byte) (s n : State) : (acceptLength l s n).idx = 2 := rfl
@[simp] theorem acceptLength_acc (l : Byte) (s n : State) : (acceptLength l s n).acc = addMod256 s.acc l := rfl
@[simp] theorem acceptLength_tmr (l : Byte) (s n : State) : (acceptLength l s n).tmr = 0 := rfl
@[simp] theorem acceptLength_tsync (l : Byte) (s n : State) : (acceptLength l s n).tsync = n.tsync := rfl
@[simp] theorem acceptLength_maxpay (l : Byte) (s n : State) : (acceptLength l s n).maxpay = n.maxpay := rfl
@[simp] theorem acceptLength_buf (l : Byte) (s n : State) : (acceptLength l s n).buf = storedBuffer n 1 l := rfl
@[simp] theorem acceptLength_params (l : Byte) (s n : State) : (acceptLength l s n).params = n.params := rfl
@[simp] theorem acceptLength_inputs (l : Byte) (s n : State) : (acceptLength l s n).inputs = n.inputs := rfl
@[simp] theorem acceptLength_cycle (l : Byte) (s n : State) : (acceptLength l s n).cycle = n.cycle := rfl
@[simp] theorem acceptLength_out (l : Byte) (s n : State) : (acceptLength l s n).out = n.out := rfl

/-! ### storeBodyByte -/

@[simp] theorem storeBodyByte_st (c : Inputs) (s n : State) : (storeBodyByte c s n).st = n.st := rfl
@[simp] theorem storeBodyByte_err (c : Inputs) (s n : State) : (storeBodyByte c s n).err = n.err := rfl
@[simp] theorem storeBodyByte_ign (c : Inputs) (s n : State) : (storeBodyByte c s n).ign = n.ign := rfl
@[simp] theorem storeBodyByte_ill (c : Inputs) (s n : State) : (storeBodyByte c s n).ill = n.ill := rfl
@[simp] theorem storeBodyByte_len (c : Inputs) (s n : State) : (storeBodyByte c s n).len = n.len := rfl
@[simp] theorem storeBodyByte_idx (c : Inputs) (s n : State) : (storeBodyByte c s n).idx = s.idx + 1 := rfl
@[simp] theorem storeBodyByte_acc (c : Inputs) (s n : State) : (storeBodyByte c s n).acc = addMod256 s.acc c.rxData := rfl
@[simp] theorem storeBodyByte_tsync (c : Inputs) (s n : State) : (storeBodyByte c s n).tsync = n.tsync := rfl
@[simp] theorem storeBodyByte_maxpay (c : Inputs) (s n : State) : (storeBodyByte c s n).maxpay = n.maxpay := rfl
@[simp] theorem storeBodyByte_buf (c : Inputs) (s n : State) : (storeBodyByte c s n).buf = storedBuffer n s.idx.toNat c.rxData := rfl
@[simp] theorem storeBodyByte_params (c : Inputs) (s n : State) : (storeBodyByte c s n).params = n.params := rfl
@[simp] theorem storeBodyByte_inputs (c : Inputs) (s n : State) : (storeBodyByte c s n).inputs = n.inputs := rfl
@[simp] theorem storeBodyByte_cycle (c : Inputs) (s n : State) : (storeBodyByte c s n).cycle = n.cycle := rfl
@[simp] theorem storeBodyByte_out (c : Inputs) (s n : State) : (storeBodyByte c s n).out = n.out := rfl

/-! ### storeChecksum -/

@[simp] theorem storeChecksum_st (c : Inputs) (s n : State) : (storeChecksum c s n).st = .done := rfl
@[simp] theorem storeChecksum_err (c : Inputs) (s n : State) : (storeChecksum c s n).err = n.err := rfl
@[simp] theorem storeChecksum_ign (c : Inputs) (s n : State) : (storeChecksum c s n).ign = n.ign := rfl
@[simp] theorem storeChecksum_ill (c : Inputs) (s n : State) : (storeChecksum c s n).ill = n.ill := rfl
@[simp] theorem storeChecksum_len (c : Inputs) (s n : State) : (storeChecksum c s n).len = n.len := rfl
@[simp] theorem storeChecksum_idx (c : Inputs) (s n : State) : (storeChecksum c s n).idx = s.idx + 1 := rfl
@[simp] theorem storeChecksum_acc (c : Inputs) (s n : State) : (storeChecksum c s n).acc = n.acc := rfl
@[simp] theorem storeChecksum_tmr (c : Inputs) (s n : State) : (storeChecksum c s n).tmr = n.tmr := rfl
@[simp] theorem storeChecksum_tsync (c : Inputs) (s n : State) : (storeChecksum c s n).tsync = n.tsync := rfl
@[simp] theorem storeChecksum_maxpay (c : Inputs) (s n : State) : (storeChecksum c s n).maxpay = n.maxpay := rfl
@[simp] theorem storeChecksum_buf (c : Inputs) (s n : State) : (storeChecksum c s n).buf = storedBuffer n s.idx.toNat c.rxData := rfl
@[simp] theorem storeChecksum_params (c : Inputs) (s n : State) : (storeChecksum c s n).params = n.params := rfl
@[simp] theorem storeChecksum_inputs (c : Inputs) (s n : State) : (storeChecksum c s n).inputs = n.inputs := rfl
@[simp] theorem storeChecksum_cycle (c : Inputs) (s n : State) : (storeChecksum c s n).cycle = n.cycle := rfl
@[simp] theorem storeChecksum_out (c : Inputs) (s n : State) : (storeChecksum c s n).out = n.out := rfl

/-! ### closeCycle -/

@[simp] theorem closeCycle_st (c : Inputs) (s n : State) : (closeCycle c s n).st = n.st := rfl
@[simp] theorem closeCycle_err (c : Inputs) (s n : State) : (closeCycle c s n).err = n.err := rfl
@[simp] theorem closeCycle_ign (c : Inputs) (s n : State) : (closeCycle c s n).ign = n.ign := rfl
@[simp] theorem closeCycle_ill (c : Inputs) (s n : State) : (closeCycle c s n).ill = n.ill := rfl
@[simp] theorem closeCycle_len (c : Inputs) (s n : State) : (closeCycle c s n).len = n.len := rfl
@[simp] theorem closeCycle_idx (c : Inputs) (s n : State) : (closeCycle c s n).idx = n.idx := rfl
@[simp] theorem closeCycle_acc (c : Inputs) (s n : State) : (closeCycle c s n).acc = n.acc := rfl
@[simp] theorem closeCycle_tmr (c : Inputs) (s n : State) : (closeCycle c s n).tmr = n.tmr := rfl
@[simp] theorem closeCycle_tsync (c : Inputs) (s n : State) : (closeCycle c s n).tsync = n.tsync := rfl
@[simp] theorem closeCycle_maxpay (c : Inputs) (s n : State) : (closeCycle c s n).maxpay = n.maxpay := rfl
@[simp] theorem closeCycle_buf (c : Inputs) (s n : State) : (closeCycle c s n).buf = n.buf := rfl
@[simp] theorem closeCycle_params (c : Inputs) (s n : State) : (closeCycle c s n).params = n.params := rfl
@[simp] theorem closeCycle_inputs (c : Inputs) (s n : State) : (closeCycle c s n).inputs = s.inputs.tail := rfl
@[simp] theorem closeCycle_cycle (c : Inputs) (s n : State) : (closeCycle c s n).cycle = s.cycle + 1 := rfl
@[simp] theorem closeCycle_out (c : Inputs) (s n : State) : (closeCycle c s n).out = { rxReady := rxReady c.rst s, busy := busy s, fin := finished s, rdData := n.out.rdData } := rfl

/-! ### endOfCycle -/

@[simp] theorem endOfCycle_st (s n : State) : (endOfCycle s n).st = n.st := rfl
@[simp] theorem endOfCycle_err (s n : State) : (endOfCycle s n).err = n.err := rfl
@[simp] theorem endOfCycle_ign (s n : State) : (endOfCycle s n).ign = n.ign := rfl
@[simp] theorem endOfCycle_ill (s n : State) : (endOfCycle s n).ill = n.ill := rfl
@[simp] theorem endOfCycle_len (s n : State) : (endOfCycle s n).len = n.len := rfl
@[simp] theorem endOfCycle_idx (s n : State) : (endOfCycle s n).idx = n.idx := rfl
@[simp] theorem endOfCycle_acc (s n : State) : (endOfCycle s n).acc = n.acc := rfl
@[simp] theorem endOfCycle_tmr (s n : State) : (endOfCycle s n).tmr = n.tmr := rfl
@[simp] theorem endOfCycle_tsync (s n : State) : (endOfCycle s n).tsync = n.tsync := rfl
@[simp] theorem endOfCycle_maxpay (s n : State) : (endOfCycle s n).maxpay = n.maxpay := rfl
@[simp] theorem endOfCycle_buf (s n : State) : (endOfCycle s n).buf = n.buf := rfl
@[simp] theorem endOfCycle_params (s n : State) : (endOfCycle s n).params = n.params := rfl
@[simp] theorem endOfCycle_inputs (s n : State) : (endOfCycle s n).inputs = s.inputs.tail := rfl
@[simp] theorem endOfCycle_cycle (s n : State) : (endOfCycle s n).cycle = s.cycle + 1 := rfl
@[simp] theorem endOfCycle_out (s n : State) : (endOfCycle s n).out = { rxReady := rxReady (currentInputs s).rst s, busy := busy s, fin := finished s, rdData := readPort s (currentInputs s).rdAddr } := rfl

@[simp] theorem storeBodyByte_tmr (c : Inputs) (s n : State) :
    (storeBodyByte c s n).tmr = (match s.params.bodyMode with
      | .interByte => 0
      | .total => tinc c.tick s.tmr) := rfl

end Sys2Proof.Machine
end

