-- ==== Sys2Proof/Laws/Ops.lean ====
section
/-! SUPPORT. What each shared operation can do, said once. -/

namespace Sys2Proof.Machine

/-! ### Arithmetic -/

theorem addMod256_eq_add (a b : Byte) : addMod256 a b = a + b := by
  apply BitVec.eq_of_toNat_eq
  simp [addMod256, BitVec.toNat_add]

theorem addMod256_toNat (a b : Byte) : (addMod256 a b).toNat = (a.toNat + b.toNat) % 256 := by
  simp [addMod256]

theorem neg8_eq_neg (a : Byte) : neg8 a = -a := by
  apply BitVec.eq_of_toNat_eq
  simp [neg8, BitVec.toNat_neg]

theorem neg8_toNat (a : Byte) : (neg8 a).toNat = (256 - a.toNat) % 256 := by
  simp [neg8]

theorem sat16_toNat (v : Nat) : (sat16 v).toNat = min v 0xFFFF := by
  simp only [sat16, BitVec.toNat_ofNat]; omega

theorem tinc_toNat (k : Bool) (t : Half) : (tinc k t).toNat = if k then min (t.toNat + 1) 0xFFFF else t.toNat := by
  cases k <;> simp [tinc, sat16_toNat]

/-- A timer below its limit does not pass it in one cycle. -/
theorem tinc_le_of_lt {k : Bool} {t l : Half} (h : t < l) : tinc k t ≤ l := by
  rw [BitVec.le_def, tinc_toNat]
  rw [BitVec.lt_def] at h
  split <;> omega

theorem lenok_iff (p : Config.Params) (m l : Byte) :
    lenok p m l = true ↔ 1 ≤ l.toNat ∧ l.toNat + 3 ≤ p.bufCap ∧ l.toNat ≤ m.toNat + 1 := by
  simp only [lenok, Bool.and_eq_true, decide_eq_true_eq]; omega

/-! ### The buffer -/

theorem bufTarget_inside {p : Config.Params} {i : Nat} (h : i < p.bufCap) : bufTarget p i = some i := if_pos h

/-- Wherever a write lands, it lands inside the buffer. -/
theorem bufTarget_lt {p : Config.Params} {i j : Nat} (h : bufTarget p i = some j) : j < p.bufCap := by
  unfold bufTarget at h
  split at h
  · simp_all
  · split at h
    · split at h
      · simp_all
      · cases h
    · cases h

theorem storedBuffer_inside {n : State} {i : Nat} (h : i < n.params.bufCap) (v : Byte) :
    storedBuffer n i v = n.buf.write i v := by
  simp [storedBuffer, bufTarget_inside h]

/-- Every write to BUF, also one at a stray index, keeps the canonical form. -/
theorem storedBuffer_wf {n : State} (h : n.buf.wf n.params.bufCap = true) (i : Nat) (v : Byte) :
    (storedBuffer n i v).wf n.params.bufCap = true := by
  unfold storedBuffer
  split
  · exact Memory.wf_write h (bufTarget_lt ‹_›) v
  · exact h

/-- What a write inside the buffer leaves at each index. -/
theorem storedBuffer_read {n : State} (h : n.buf.wf n.params.bufCap = true) {i : Nat} (hi : i < n.params.bufCap)
    (v : Byte) (j : Nat) : (storedBuffer n i v).read j = if j = i then v else bufRead n j := by
  rw [storedBuffer_inside hi, Memory.read_write h]; rfl

/-! ### Phases and the handshake -/

theorem busy_iff (s : State) : busy s = true ↔ s.st = .sync ∨ s.st = .settle ∨ s.st = .lenwait ∨ s.st = .body := by
  cases h : s.st <;> simp [busy, h, St.isBusy]

theorem finished_iff (s : State) : finished s = true ↔ s.st = .done ∨ s.st = .error := by
  cases h : s.st <;> simp [finished, h, St.isFinished]

theorem expired_sync {s : State} (h : s.st = .sync) : expired s = decide (s.tsync ≤ s.tmr) := by
  simp [expired, limit, h]

theorem expired_settle {s : State} (h : s.st = .settle) : expired s = decide (s.params.tSettle ≤ s.tmr) := by
  simp [expired, limit, h]

theorem expired_lenwait {s : State} (h : s.st = .lenwait) : expired s = decide (s.params.tLen ≤ s.tmr) := by
  simp [expired, limit, h]

theorem expired_body {s : State} (h : s.st = .body) : expired s = decide (s.params.tBody ≤ s.tmr) := by
  simp [expired, limit, h]

/-- `rx_ready` is 1 in exactly the phases that take bytes, before their limit, and not in a reset cycle. -/
theorem rxReady_iff (rst : Bool) (s : State) :
    rxReady rst s = true ↔
      rst = false ∧ (s.st = .sync ∨ s.st = .lenwait ∨ s.st = .body) ∧ expired s = false := by
  cases rst <;> cases h : s.st <;> simp [rxReady, expired, limit, h]

/-! ### Commands -/

theorem unlessBusy_busy {s : State} (h : busy s = true) (t : State) : unlessBusy s t = { s with ign := true } :=
  if_pos h

theorem unlessBusy_free {s : State} (h : busy s = false) (t : State) : unlessBusy s t = t := by
  simp [unlessBusy, h]

/-- R164 as an operation: one of two things happens. -/
theorem unlessBusy_cases (s t : State) :
    (busy s = true ∧ unlessBusy s t = { s with ign := true }) ∨ (busy s = false ∧ unlessBusy s t = t) := by
  cases h : busy s
  · exact .inr ⟨rfl, unlessBusy_free h t⟩
  · exact .inl ⟨rfl, unlessBusy_busy h t⟩

/-! ### The receiver: what each phase can do, with its guards -/

theorem receiveSync_cases (c : Inputs) (s n : State) :
    (expired s = true ∧ receiveSync c s n = raiseError .syncTimeout n) ∨
    (expired s = false ∧ c.rxValid = true ∧ c.rxData = sentinel ∧ receiveSync c s n = acceptSentinel s n) ∨
    (expired s = false ∧ ¬(c.rxValid = true ∧ c.rxData = sentinel) ∧ receiveSync c s n = countTick c.tick s n) := by
  cases he : expired s <;> by_cases hb : c.rxValid = true ∧ c.rxData = sentinel <;> simp_all [receiveSync]

theorem receiveSettle_cases (c : Inputs) (s n : State) :
    (expired s = true ∧ receiveSettle c s n = { n with st := .lenwait, tmr := 0 }) ∨
    (expired s = false ∧ receiveSettle c s n = countTick c.tick s n) := by
  cases he : expired s <;> simp_all [receiveSettle]

theorem receiveLenwait_cases (c : Inputs) (s n : State) :
    (expired s = true ∧ receiveLenwait c s n = raiseError .lengthTimeout n) ∨
    (expired s = false ∧ c.rxValid = true ∧ lenok s.params s.maxpay c.rxData = true ∧
      receiveLenwait c s n = acceptLength c.rxData s n) ∨
    (expired s = false ∧ c.rxValid = true ∧ lenok s.params s.maxpay c.rxData = false ∧
      receiveLenwait c s n = raiseError .invalidLength { n with len := c.rxData }) ∨
    (expired s = false ∧ c.rxValid = false ∧ receiveLenwait c s n = countTick c.tick s n) := by
  cases he : expired s <;> cases hv : c.rxValid <;> cases hl : lenok s.params s.maxpay c.rxData <;>
    simp_all [receiveLenwait]

theorem receiveBody_cases (c : Inputs) (s n : State) :
    (expired s = true ∧ receiveBody c s n = raiseError .shortRead n) ∨
    (expired s = false ∧ c.rxValid = true ∧ s.idx.toNat < s.len.toNat + 2 ∧
      receiveBody c s n = storeBodyByte c s n) ∨
    (expired s = false ∧ c.rxValid = true ∧ s.idx.toNat = s.len.toNat + 2 ∧
      receiveBody c s n = storeChecksum c s n) ∨
    (expired s = false ∧ c.rxValid = true ∧ s.len.toNat + 2 < s.idx.toNat ∧
      receiveBody c s n = countTick c.tick s n) ∨
    (expired s = false ∧ c.rxValid = false ∧ receiveBody c s n = countTick c.tick s n) := by
  cases he : expired s
  · cases hv : c.rxValid
    · simp_all [receiveBody]
    · rcases Nat.lt_trichotomy s.idx.toNat (s.len.toNat + 2) with h | h | h
      · simp_all [receiveBody]
      · simp_all [receiveBody]
      · have h1 : ¬ s.idx.toNat < s.len.toNat + 2 := by omega
        have h2 : ¬ s.idx.toNat = s.len.toNat + 2 := by omega
        simp_all [receiveBody]
  · simp_all [receiveBody]

@[simp] theorem receive_sync {s : State} (h : s.st = .sync) (c : Inputs) (n : State) :
    receive c s n = receiveSync c s n := by simp [receive, h]

@[simp] theorem receive_settle {s : State} (h : s.st = .settle) (c : Inputs) (n : State) :
    receive c s n = receiveSettle c s n := by simp [receive, h]

@[simp] theorem receive_lenwait {s : State} (h : s.st = .lenwait) (c : Inputs) (n : State) :
    receive c s n = receiveLenwait c s n := by simp [receive, h]

@[simp] theorem receive_body {s : State} (h : s.st = .body) (c : Inputs) (n : State) :
    receive c s n = receiveBody c s n := by simp [receive, h]

/-! ### Frames -/

theorem sumBytes_append (xs ys : List Byte) : sumBytes (xs ++ ys) = sumBytes xs + sumBytes ys := by
  induction xs with
  | nil => simp [sumBytes]
  | cons x xs ih => simp [sumBytes, ih, Nat.add_assoc]

theorem compute_toNat (bs : List Byte) : (compute bs).toNat = (256 - sumBytes bs % 256) % 256 := by
  simp [compute]

/-- CHK is `compute` of any bytes whose sum ACC holds. -/
theorem chk_eq_compute {s : State} {bs : List Byte} (h : s.acc.toNat = sumBytes bs % 256) : chk s = compute bs := by
  simp [chk, neg8, compute, h]

/-! ### The cycle's inputs -/

@[simp] theorem currentInputs_withInputs (s : State) (c : Inputs) : currentInputs (withInputs s c) = c := rfl

theorem currentInputs_cons {s : State} {c : Inputs} {cs : List Inputs} (h : s.inputs = c :: cs) :
    currentInputs s = c := by simp [currentInputs, h]

end Sys2Proof.Machine
end

