-- ==== Sys2Proof/Laws/PerInstr.lean ====
section
/-! SUPPORT. The per-instruction family EncodedPort: a well-formed operation is presented on its own port, and on the
command port its word matches a row of 30_encoding.md R73 exactly when it is a command. -/

namespace Sys2Proof.Laws.EncodedPort

/-- What a well-formed operation is presented as. -/
def Statement (i : Instr) : Prop :=
  i.wellFormed = true →
    match encode i with
    | .cmd w => Machine.isCommandWord w = true ↔ ∀ v, i ≠ .illegal v
    | .rdAddr _ => ∃ a, i = .read a

theorem tsync_masked (t : Half) : Machine.wordI16 0x2 t &&& 0xFFFF0000#32 = 0x20000000#32 := by
  refine (BitVec.and_append (x₁ := 0x2#4 ++ 0#12) (x₂ := 0xFFFF#16) (y₁ := t) (y₂ := 0#16)).trans ?_
  rw [BitVec.and_zero]; decide

theorem maxpay_masked (m : Byte) : Machine.wordI8 0x3 m &&& 0xFFFFFF00#32 = 0x30000000#32 := by
  refine (BitVec.and_append (x₁ := 0x3#4 ++ 0#20) (x₂ := 0xFFFFFF#24) (y₁ := m) (y₂ := 0#8)).trans ?_
  rw [BitVec.and_zero]; decide

theorem radd_masked (b : Byte) : Machine.wordI8 0x5 b &&& 0xFFFFFF00#32 = 0x50000000#32 := by
  refine (BitVec.and_append (x₁ := 0x5#4 ++ 0#20) (x₂ := 0xFFFFFF#24) (y₁ := b) (y₂ := 0#8)).trans ?_
  rw [BitVec.and_zero]; decide

theorem isCommandWord_of_row {w : Word} (r : Machine.OpRow) (hr : r ∈ Machine.opcodeRows)
    (hw : w &&& r.mask = r.pattern) : Machine.isCommandWord w = true := by
  simp only [Machine.isCommandWord, List.any_eq_true]
  exact ⟨r, hr, by simp [Machine.rowMatches, hw]⟩

theorem nop : Statement .nop := by
  intro _
  simp only [encode]
  exact ⟨(fun _ _ h => by cases h), (fun _ => by decide)⟩

theorem start : Statement .start := by
  intro _
  simp only [encode]
  exact ⟨(fun _ _ h => by cases h), (fun _ => by decide)⟩

theorem tsync (t : Half) : Statement (.tsync t) := by
  intro _
  simp only [encode]
  exact ⟨(fun _ _ h => by cases h), fun _ =>
    isCommandWord_of_row ⟨"TSYNC", 0x20000000#32, 0xFFFF0000#32⟩ (by decide) (tsync_masked t)⟩

theorem maxpay (m : Byte) : Statement (.maxpay m) := by
  intro _
  simp only [encode]
  exact ⟨(fun _ _ h => by cases h), fun _ =>
    isCommandWord_of_row ⟨"MAXPAY", 0x30000000#32, 0xFFFFFF00#32⟩ (by decide) (maxpay_masked m)⟩

theorem rclr : Statement .rclr := by
  intro _
  simp only [encode]
  exact ⟨(fun _ _ h => by cases h), (fun _ => by decide)⟩

theorem radd (b : Byte) : Statement (.radd b) := by
  intro _
  simp only [encode]
  exact ⟨(fun _ _ h => by cases h), fun _ =>
    isCommandWord_of_row ⟨"RADD", 0x50000000#32, 0xFFFFFF00#32⟩ (by decide) (radd_masked b)⟩

theorem read (a : RdAddr) : Statement (.read a) := fun _ => ⟨a, rfl⟩

theorem illegal (w : Word) : Statement (.illegal w) := by
  intro h
  simp only [encode]
  simp only [Instr.wellFormed, Bool.not_eq_true'] at h
  exact ⟨fun h' => by simp [h] at h', fun h' => absurd rfl (h' w)⟩

end Sys2Proof.Laws.EncodedPort
end

