-- ==== Sys2Proof/Laws/Step.lean ====
section
/-! SUPPORT. What a step can do, said once. -/

namespace Sys2Proof.Machine

/-- No command word decodes to READ: the read port has no command word (30_encoding.md R72). -/
theorem decodeWord_ne_read (w : Word) (a : RdAddr) : decodeWord w ≠ .read a := by
  unfold decodeWord
  split
  · rename_i i h
    intro hi
    subst hi
    revert h
    unfold classify
    repeat' split
    all_goals simp
  · simp

theorem fetchCommand_ne_read (c : Inputs) (a : RdAddr) : fetchCommand c ≠ some (.read a) := by
  unfold fetchCommand decode
  split
  · simp
  · split
    · simpa using decodeWord_ne_read c.cmdWord a
    · simp

/-- The receiver does not touch the model's record of the outputs. -/
theorem receive_out (c : Inputs) (s n : State) (o : Outputs) :
    receive c s { n with out := o } = { receive c s n with out := o } := by
  unfold receive receiveSync receiveSettle receiveLenwait receiveBody
  repeat' split
  all_goals rfl

/-! ### The flags of a busy cycle touch nothing else -/

@[simp] theorem withCommandFlags_st (c : Option Instr) (s : State) : (withCommandFlags c s).st = s.st := by
  rcases c with _ | i; · rfl
  cases i <;> rfl

@[simp] theorem withCommandFlags_err (c : Option Instr) (s : State) : (withCommandFlags c s).err = s.err := by
  rcases c with _ | i; · rfl
  cases i <;> rfl

@[simp] theorem withCommandFlags_len (c : Option Instr) (s : State) : (withCommandFlags c s).len = s.len := by
  rcases c with _ | i; · rfl
  cases i <;> rfl

@[simp] theorem withCommandFlags_idx (c : Option Instr) (s : State) : (withCommandFlags c s).idx = s.idx := by
  rcases c with _ | i; · rfl
  cases i <;> rfl

@[simp] theorem withCommandFlags_acc (c : Option Instr) (s : State) : (withCommandFlags c s).acc = s.acc := by
  rcases c with _ | i; · rfl
  cases i <;> rfl

@[simp] theorem withCommandFlags_tmr (c : Option Instr) (s : State) : (withCommandFlags c s).tmr = s.tmr := by
  rcases c with _ | i; · rfl
  cases i <;> rfl

@[simp] theorem withCommandFlags_tsync (c : Option Instr) (s : State) : (withCommandFlags c s).tsync = s.tsync := by
  rcases c with _ | i; · rfl
  cases i <;> rfl

@[simp] theorem withCommandFlags_maxpay (c : Option Instr) (s : State) : (withCommandFlags c s).maxpay = s.maxpay := by
  rcases c with _ | i; · rfl
  cases i <;> rfl

@[simp] theorem withCommandFlags_buf (c : Option Instr) (s : State) : (withCommandFlags c s).buf = s.buf := by
  rcases c with _ | i; · rfl
  cases i <;> rfl

@[simp] theorem withCommandFlags_params (c : Option Instr) (s : State) : (withCommandFlags c s).params = s.params := by
  rcases c with _ | i; · rfl
  cases i <;> rfl

@[simp] theorem withCommandFlags_inputs (c : Option Instr) (s : State) : (withCommandFlags c s).inputs = s.inputs := by
  rcases c with _ | i; · rfl
  cases i <;> rfl

@[simp] theorem withCommandFlags_cycle (c : Option Instr) (s : State) : (withCommandFlags c s).cycle = s.cycle := by
  rcases c with _ | i; · rfl
  cases i <;> rfl

@[simp] theorem withCommandFlags_out (c : Option Instr) (s : State) : (withCommandFlags c s).out = s.out := by
  rcases c with _ | i; · rfl
  cases i <;> rfl

/-! ### What the parts of a cycle leave alone -/

theorem receive_params (c : Inputs) (s n : State) : (receive c s n).params = n.params := by
  unfold receive receiveSync receiveSettle receiveLenwait receiveBody
  repeat' split
  all_goals rfl

theorem receive_ign (c : Inputs) (s n : State) : (receive c s n).ign = n.ign := by
  unfold receive receiveSync receiveSettle receiveLenwait receiveBody
  repeat' split
  all_goals rfl

theorem receive_ill (c : Inputs) (s n : State) : (receive c s n).ill = n.ill := by
  unfold receive receiveSync receiveSettle receiveLenwait receiveBody
  repeat' split
  all_goals rfl

/-- What the command part of a cycle makes of the block. -/
def commandResult (s : State) : State :=
  match fetchCommand (currentInputs s) with
  | none => s
  | some .nop => s
  | some .start => unlessBusy s (startFrame s)
  | some (.tsync t) => unlessBusy s { s with tsync := t }
  | some (.maxpay m) => unlessBusy s { s with maxpay := m }
  | some .rclr => unlessBusy s { s with acc := 0 }
  | some (.radd b) => unlessBusy s { s with acc := addMod256 s.acc b }
  | some (.read _) => s
  | some (.illegal _) => { s with ill := true }

/-- In a busy cycle a command only sets flags. -/
theorem commandResult_busy {s : State} (h : busy s = true) : commandResult s = afterCommand s := by
  unfold commandResult afterCommand withCommandFlags
  cases fetchCommand (currentInputs s) with
  | none => rfl
  | some i => cases i <;> first | rfl | exact unlessBusy_busy h _

theorem commandResult_params (s : State) : (commandResult s).params = s.params := by
  unfold commandResult unlessBusy
  repeat' split
  all_goals rfl

theorem commandResult_buf (s : State) : (commandResult s).buf = s.buf := by
  unfold commandResult unlessBusy
  repeat' split
  all_goals rfl

/-- Closing a cycle, where the command part carries the READ's record of `rd_data`. -/
theorem closeCycle_of_read (s n : State) :
    closeCycle (currentInputs s) s (receiveOrReset (currentInputs s) s
        { n with out := { s.out with rdData := readPort s (currentInputs s).rdAddr } }) =
      endOfCycle s (receiveOrReset (currentInputs s) s n) := by
  unfold receiveOrReset
  split
  · rfl
  · split
    · simp only [closeCycle, endOfCycle, receive_out]
    · rfl

/-- The step in one equation: the command part, then reset or receiver, then the record of the cycle. -/
theorem step_eq (s : State) :
    step s = .next (endOfCycle s (receiveOrReset (currentInputs s) s (commandResult s))) := by
  rw [← closeCycle_of_read]
  unfold step commandResult
  cases h : fetchCommand (currentInputs s) with
  | none => rfl
  | some i =>
    cases i with
    | read a => exact absurd h (fetchCommand_ne_read _ a)
    | _ =>
      simp only [exec, fetchRead, decode, execRead, execNop, execStart, execTsync, execMaxpay, execRclr, execRadd,
        execIllegal, unlessBusy, busy]
      try (by_cases hb : s.st.isBusy = true <;> simp only [hb] <;> rfl)

/-! ### Polling -/

theorem statusFin_status (s : State) : statusFin (status s) = finished s := by
  simp only [statusFin, status, BitVec.getLsbD_append]
  simp

/-- What one READ of POLL does: it shows FIN of the state it reads, and POLL ends there or goes on. -/
theorem pollRun_succ {fuel : Nat} {s t : State} (h : step (pollNext s) = .next t) :
    pollRun (fuel + 1) s = if finished s then some (1, t) else (pollRun fuel t).map (fun r => (r.1 + 1, r.2)) := by
  have hshown : t.out.rdData = status s := by
    rw [step_eq] at h
    cases h
    rfl
  simp only [pollRun, h, hshown, statusFin_status]

end Sys2Proof.Machine
end

