-- ==== Sys2Proof/Tests/Slice0.lean ====
section
/-! SUPPORT. Tests of single cycles, each with its expected result from a vector of spec/95_test_vectors.md (named in its
comment), and for every statement with hypotheses a witness that meets them. -/

namespace Sys2Proof.Tests

open Sys2Proof.Machine

/-! ### Small states -/

/-- The reference instance in control state `c`, with TSYNC = 500 and MAXPAY = 12, and these inputs next. -/
def mk (c : St) (i : Inputs) : State :=
  { State.reset with st := c, tsync := 500, maxpay := 12, inputs := [i] }

/-- "rx XX", "tick": the inputs of a receiver vector. -/
def rx (b : Byte) (k : Bool) : Inputs := { quietInputs with rxValid := true, rxData := b, tick := k }

/-- "no rx". -/
def noRx (k : Bool) : Inputs := { quietInputs with tick := k }

/-- The state after one step. -/
def after (s : State) : Option State :=
  match step s with
  | .next t => some t
  | .fault _ => none
  | .refused _ => none

/-- SETTLE and LENWAIT as a frame leaves them. -/
def headed (c : St) (i : Inputs) : State := { mk c i with idx := 1, acc := 0x40, buf := [(0, 0x40)] }

/-- BODY at index `n` of a frame of length 13. -/
def inBody (n : Index) (a : Byte) (k : Half) (i : Inputs) : State :=
  { mk .body i with len := 13, idx := n, acc := a, tmr := k, buf := [(0, 0x40), (1, 0x0D)] }

/-! ### Words written out from the encodings of R72 -/

theorem test_decode_nop : decodeWord 0b00000000000000000000000000000000 = .nop := by decide
theorem test_decode_start : decodeWord 0b00010000000000000000000000000000 = .start := by decide
theorem test_decode_tsync : decodeWord 0b00100000000000000000000111110100 = .tsync 500 := by decide
theorem test_decode_maxpay : decodeWord 0b00110000000000000000000000001100 = .maxpay 12 := by decide
theorem test_decode_rclr : decodeWord 0b01000000000000000000000000000000 = .rclr := by decide
theorem test_decode_radd : decodeWord 0b01010000000000000000000010010011 = .radd 0x93 := by decide
theorem test_decode_read : decodeTableWord 9 0b100000010 = some (.read 0x102) := by decide
theorem test_decode_illegal_op : decodeWord 0b01100000000000000000000000000000 = .illegal 0x60000000 := by decide
theorem test_decode_illegal_rsv : classify 0x20010000 = .error .rsvNonzero := by decide
theorem test_decode_illegal_imm : classify 0x1000FFFF = .error .immNonzero := by decide
theorem test_decode_illegal_high : classify 0x50000140 = .error .immHighNonzero := by decide
theorem test_decode_illegal_reserved : classify 0xF0000000 = .error .reservedOp := by decide
theorem test_encode_tsync : encode (.tsync 500) = .cmd 0x200001F4 := by decide
theorem test_encode_radd : encode (.radd 0x68) = .cmd 0x50000068 := by decide
theorem test_table_word : decodeTableWord 32 0x3000000C = some (.maxpay 12) := by decide

/-! ### Well-formedness refuses an illegal term that holds a command -/

theorem test_wf_refuses_nop_word : (Instr.illegal 0x00000000).wellFormed = false := by decide
theorem test_wf_refuses_tsync_word : (Instr.illegal 0x2000FFFF).wellFormed = false := by decide
theorem test_wf_refuses_radd_word : (Instr.illegal 0x50000001).wellFormed = false := by decide
theorem test_wf_accepts_reserved_word : (Instr.illegal 0x60000000).wellFormed = true := by decide

/-! ### The operations -/

/-- V-C4: NOP while busy sets nothing. -/
theorem test_nop_while_busy :
    (after (inBody 5 0 7 { noRx false with cmdValid := true })).map (fun t => (t.ign, t.ill, t.tmr))
      = some (false, false, 7) := by decide

/-- V-C5: START from DONE. -/
theorem test_start_from_done :
    (after { mk .done { rx 0x40 false with cmdValid := true, cmdWord := 0x10000000 } with
        ign := true, ill := true, len := 13, idx := 16, acc := 0xA3, tmr := 13 }).map
      (fun t => (status t, t.out.rxReady, t.idx, t.tmr)) = some (0x0C01, false, 0, 0) := by decide

/-- V-C7: START while busy is ignored. -/
theorem test_start_while_busy :
    (after { mk .sync { noRx true with cmdValid := true, cmdWord := 0x10000000 } with tmr := 9 }).map
      (fun t => (t.ign, t.st, t.tmr)) = some (true, .sync, 10) := by decide

/-- V-C1. -/
theorem test_tsync_sets :
    (after (State.reset.withFetchWord 32 0x200001F4)).map (fun t => readPort t 0x006) = some 0x01F4 := by decide

/-- V-C2: TSYNC while busy is ignored, and the receiver runs. -/
theorem test_tsync_while_busy :
    (after { mk .sync { noRx true with cmdValid := true, cmdWord := 0x20000007 } with tmr := 4 }).map
      (fun t => (t.ign, t.tsync, t.tmr)) = some (true, 500, 5) := by decide

/-- V-C10. -/
theorem test_maxpay_sets :
    (after (State.reset.withFetchWord 32 0x300000FF)).map State.maxpay = some 255 := by decide

/-- Log 9: MAXPAY in DONE is accepted, so R39 item 3's clause on MAXPAY fails of a state that a run reaches. -/
theorem test_maxpay_in_done :
    (after { mk .done (commandInputs 0x30000000) with len := 13, idx := 16 }).map (fun t => (t.st, t.len, t.maxpay))
      = some (.done, 13, 0) := by decide

/-- V-R1. -/
theorem test_rclr_clears :
    (after { mk .idle (commandInputs 0x40000000) with acc := 0x6D }).map (fun t => (t.acc, chk t, zeroFlag t))
      = some (0, 0, true) := by decide

/-- V-R9: a malformed RCLR only sets ILL. -/
theorem test_rclr_malformed :
    (after { mk .idle (commandInputs 0x40000001) with acc := 0x33 }).map (fun t => (t.acc, t.ill)) = some (0x33, true) := by
  decide

/-- V-R3: the carry is dropped. -/
theorem test_radd_wraps :
    (after { mk .done (commandInputs 0x50000001) with acc := 0xFF }).map (fun t => (t.acc, zeroFlag t)) = some (0, true) := by
  decide

/-- V-R6: RADD while busy is ignored, and the receiver adds its own byte. -/
theorem test_radd_while_busy :
    (after (inBody 2 0x4D 0 { rx 0x04 true with cmdValid := true, cmdWord := 0x50000010 })).map
      (fun t => (t.ign, t.acc, t.idx, t.tmr, bufRead t 2)) = some (true, 0x51, 3, 1, 0x04) := by decide

/-- Section 2.11: the last byte of the buffer window, and the first address past it. -/
theorem test_read_window :
    (readPort { mk .done (noRx false) with buf := [(15, 0x5D)] } 0x10F,
     readPort { mk .done (noRx false) with buf := [(15, 0x5D)] } 0x110) = (0x005D, 0x0000) := by decide

/-- V-Z2: a READ in a reset cycle shows the state before the reset. -/
theorem test_read_in_reset :
    (after (inBody 7 0x74 6 { noRx false with rst := true, rdAddr := 0x002 })).map
      (fun t => (t.out.rdData, t.idx, status t)) = some (0x0007, 0, 0x0400) := by decide

/-- V-C3: an illegal word in BODY. -/
theorem test_illegal_in_body :
    (after (inBody 5 0 7 { noRx false with cmdValid := true, cmdWord := 0x00000001 })).map
      (fun t => (t.ill, t.ign, t.st)) = some (true, false, .body) := by decide

/-- V-C9: a word without `cmd_valid` is not decoded. -/
theorem test_illegal_not_presented :
    (after (mk .idle { noRx false with cmdWord := 0x60000000 })).map State.ill = some false := by decide

/-! ### The receiver -/

/-- V-S2. -/
theorem test_sync_accepts_sentinel :
    (after (mk .sync (rx 0x40 true))).map (fun t => (status t, bufRead t 0, t.acc, t.idx, t.tmr, t.out.rxReady))
      = some (0x0802, 0x40, 0x40, 1, 0, true) := by decide

/-- V-S8: expiry beats the byte. -/
theorem test_sync_expires :
    (after { mk .sync (rx 0x40 false) with tsync := 1, tmr := 1 }).map (fun t => (t.st, t.err, t.tmr, t.out.rxReady))
      = some (.error, .syncTimeout, 1, false) := by decide

/-- V-S10: the timer at its top. -/
theorem test_timer_saturates :
    (after { mk .sync (noRx true) with tsync := 0xFFFF, tmr := 0xFFFE }).map State.tmr = some 0xFFFF := by decide

/-- V-T3. -/
theorem test_settle_ends :
    (after { headed .settle (rx 0x0D true) with tmr := 1 }).map (fun t => (status t, t.tmr, t.out.rxReady))
      = some (0x0803, 0, false) := by decide

/-- V-L5: accepted in the last cycle of LENWAIT. -/
theorem test_lenwait_accepts :
    (after { headed .lenwait (rx 0x0D true) with tmr := 99 }).map
      (fun t => (t.st, t.len, bufRead t 1, t.acc, t.idx, t.tmr)) = some (.body, 13, 0x0D, 0x4D, 2, 0) := by decide

/-- V-L7: the caller clause fails, LEN keeps the byte, BUF[1] is not written. -/
theorem test_lenwait_rejects :
    (after { headed .lenwait (rx 0x0D false) with maxpay := 8 }).map
      (fun t => (t.st, t.err, t.len, bufRead t 1, t.idx, t.out.rxReady))
      = some (.error, .invalidLength, 13, 0, 1, true) := by decide

/-- V-B2. -/
theorem test_body_completes :
    (after (inBody 15 0xA3 12 (rx 0x5D true))).map (fun t => (status t, bufRead t 15, t.idx, t.acc, t.tmr))
      = some (0x1005, 0x5D, 16, 0xA3, 12) := by decide

/-- V-B6: INTER_BYTE restarts the timer. -/
theorem test_body_inter_byte :
    (after { inBody 4 0x51 60 (rx 0x0A true) with params := { Config.reference with bodyMode := .interByte } }).map
      (fun t => (bufRead t 4, t.idx, t.acc, t.tmr)) = some (0x0A, 5, 0x5B, 0) := by decide

/-- The length table of section 2.8 at its edges. -/
theorem test_lenok_edges :
    lenok Config.reference 12 0 = false ∧ lenok Config.reference 12 13 = true ∧ lenok Config.reference 12 14 = false ∧
    lenok { Config.reference with bufCap := 256 } 255 253 = true ∧
    lenok { Config.reference with bufCap := 256 } 255 254 = false ∧
    lenok { Config.reference with bufCap := 4 } 0 1 = true := by decide

/-- V-K8, V-K12, V-K18. -/
theorem test_compute :
    compute [0x68, 0x01, 0x04] = 0x93 ∧
    compute [0x40, 0x0D, 0x04, 0x00, 0x0A, 0x00, 0x19, 0x00, 0x0F, 0x00, 0x20, 0x00, 0x00, 0x00, 0x00] = 0x5D ∧
    inboundFrame 0x40 [0x40] = [0x40, 0x02, 0x40, 0x40, 0x3E] := by decide

/-- Program P1, lines c1 to c3, assembled. -/
theorem test_assemble_encode :
    programInputs [AsmLine.rclr.alone, (AsmLine.radd 0x68).alone, (AsmLine.radd 0x01).alone] =
      some [commandInputs 0x40000000, commandInputs 0x50000068, commandInputs 0x50000001] ∧
    assemble (.maxpay 256) = none := by decide

/-- Program P1, lines c5 and c7: a READ in the cycle of a NOP, and one in a cycle with no command. -/
theorem test_program_reads :
    programInputs [{ line := .nop, joined := some .chk }, (AsmLine.read .status).alone] =
      some [{ quietInputs with cmdValid := true, rdAddr := 0x004 }, quietInputs] := by decide

/-! ### Witnesses: states and operands that meet the hypotheses of each statement -/

/-- A frame as BODY holds it after 40 02 41 with L = 2, within every invariant. -/
def running (n : Index) (a : Byte) (k : Half) (i : Inputs) : State :=
  { mk .body i with len := 2, idx := n, acc := a, tmr := k, buf := [(0, 0x40), (1, 0x02), (2, 0x41)] }

theorem wit_DecodeOfEncodeIsTheInstruction :
    (Instr.illegal 0xFFFFFFFF).wellFormed = true ∧ (Instr.tsync 0xFFFF).wellFormed = true := by decide

theorem wit_DecodeFollowsTheTableAndTheMasks :
    rsvField 0x00010000 ≠ 0 ∧ (rsvField 0x60000000 = 0 ∧ 0x6 ≤ (opField 0x60000000).toNat) ∧
    (rsvField 0x30000100 = 0 ∧ opField 0x30000100 = 0x3) ∧ (rsvField 0x50000000 = 0 ∧ opField 0x50000000 = 0x5) := by
  decide

theorem wit_IllegalWordsOnlySetIll :
    (noRx true).rst = false ∧ decodeWord 0x5FFF0000 = .illegal 0x5FFF0000 := by decide

theorem wit_NopWritesNothing : opField 0x00000001 = 0x0 ∧ opField 0x00000000 = 0x0 := by decide

theorem wit_StartBeginsAFrame :
    busy { mk .error (noRx false) with err := .invalidLength, ill := true } = false ∧
    busy (inBody 2 0 0 (noRx false)) = true ∧
    ({ mk .sync (noRx false) with tsync := 0 }.st = .sync ∧ { mk .sync (noRx false) with tsync := 0 }.tsync = 0 ∧
      (currentInputs { mk .sync (noRx false) with tsync := 0 }).rst = false) := by decide

theorem wit_TsyncSetsTheSyncTimeout :
    busy State.reset = false ∧ busy (mk .sync (noRx false)) = true ∧
    ((mk .sync (noRx false)).st = .sync ∧ (currentInputs (mk .sync (noRx false))).rst = false) := by decide

theorem wit_MaxpaySetsTheCapacity :
    busy (mk .done (noRx false)) = false ∧ busy (mk .sync (noRx false)) = true ∧
    (opField 0x30000100 = 0x3 ∧ immHigh 0x30000100 ≠ 0) ∧ Config.reference.wf ∧ 253 ≤ (253 : Byte).toNat := by decide

theorem wit_RclrClearsTheReducer :
    busy { mk .idle (noRx false) with acc := 0x6D } = false ∧ busy (mk .sync (noRx false)) = true ∧
    (opField 0x40000001 = 0x4 ∧ (0x40000001 : Word) ≠ 0x40000000) := by decide

theorem wit_RaddAddsAByte :
    (busy { mk .done (noRx false) with acc := 0xFF } = false ∧ (0x01 : Byte) = neg8 0xFF ∧
      (0xFF : Byte).toNat = sumBytes [0xFF] % 256) ∧
    busy (mk .sync (noRx false)) = true ∧ (opField 0x50000140 = 0x5 ∧ immHigh 0x50000140 ≠ 0) := by decide

theorem wit_CommandsWhileBusyOnlySetIgn :
    busy (mk .sync (noRx false)) = true ∧ busy (headed .settle (noRx false)) = true ∧
    busy (headed .lenwait (noRx false)) = true ∧ busy (inBody 2 0 0 (noRx false)) = true := by decide

theorem wit_StepRunsTheDecodedOperations :
    (currentInputs (mk .idle { noRx false with rst := true })).rst = true ∧
    (currentInputs (mk .sync (noRx true))).cmdValid = false ∧
    ((currentInputs (mk .done (commandInputs 0x50000001))).rst = false ∧
      (currentInputs (mk .done (commandInputs 0x50000001))).cmdValid = true) := by decide

theorem wit_PresentedInstructionIsFetchedNext : 0x300000FF < 2 ^ 32 ∧ 0x1FF < 512 := by decide

theorem wit_ResetCycleLoadsTheResetValues :
    (currentInputs (inBody 7 0x74 6 { rx 0 true with rst := true })).rst = true := by decide

theorem wit_ControlMovesOnlyAlongTheTransitions :
    ((inBody 15 0xA3 0 (rx 0x5D false)).st ≠ .unused7 ∧
      (inBody 15 0xA3 0 (rx 0x5D false)).idx.toNat ≤ (inBody 15 0xA3 0 (rx 0x5D false)).len.toNat + 2 ∧
      (currentInputs (inBody 15 0xA3 0 (rx 0x5D false))).rst = false) ∧
    (mk .idle (commandInputs 0x10000000)).st ≠ .unused7 := by decide

theorem wit_EachFieldHasOnlyItsWriters :
    (currentInputs (mk .done (commandInputs 0x20000007))).rst = false ∧
    (after (mk .done (commandInputs 0x20000007))).map State.tsync = some 7 ∧
    (after (mk .settle (commandInputs 0x40000000))).map State.ign = some true ∧
    (after (mk .body (commandInputs 0x60000000))).map State.ill = some true ∧
    (after { mk .error (commandInputs 0x10000000) with ign := true, ill := true }).map (fun t => (t.ign, t.ill))
      = some (false, false) := by decide

theorem wit_TimerCountsTicksOfThePhase :
    ((currentInputs (headed .settle (noRx true))).rst = false ∧ busy (headed .settle (noRx true)) = true) ∧
    busy (mk .done (noRx true)) = false := by decide

theorem wit_ReadPortFollowsTheAddressMap :
    Config.reference.wf ∧ 0x00D ≤ (0x0FF : RdAddr).toNat ∧ 0x100 ≤ (0x100 : RdAddr).toNat := by decide

theorem wit_IgnoredInputsChangeNothing :
    (noRx true).cmdValid = false ∧ (noRx true).rxValid = false ∧
    rxReady false (headed .settle (noRx false)) = false ∧ { noRx true with rst := true }.rst = true := by decide

theorem wit_RaisingAnErrorIsPrecise :
    (mk .error (noRx false)).st = .error ∧
    (∃ s : State, (currentInputs s).rst = false ∧ s.st = .sync ∧ s.tsync ≤ s.tmr ∧ InvTimer s) ∧
    (∃ s : State, (currentInputs s).rst = false ∧ s.st = .lenwait ∧ s.params.tLen ≤ s.tmr ∧ InvTimer s) ∧
    (∃ s : State, (currentInputs s).rst = false ∧ s.st = .body ∧ s.params.tBody ≤ s.tmr ∧ InvTimer s) ∧
    (∃ s : State, (currentInputs s).rst = false ∧ s.st = .lenwait ∧ s.tmr < s.params.tLen ∧
      (currentInputs s).rxValid = true ∧ lenok s.params s.maxpay (currentInputs s).rxData = false) :=
  ⟨by decide, ⟨{ mk .sync (rx 0x40 false) with tmr := 500 }, by decide⟩,
   ⟨{ headed .lenwait (rx 0x0D false) with tmr := 100 }, by decide⟩,
   ⟨inBody 15 0xA3 100 (rx 0x5D false), by decide⟩,
   ⟨{ headed .lenwait (rx 0x0E false) with tmr := 99 }, by decide⟩⟩

theorem wit_SentinelIsAccepted :
    ∃ s : State, BufferOk s ∧ InvSync s ∧ (currentInputs s).rst = false ∧ s.st = .sync ∧ s.tmr < s.tsync ∧
      (currentInputs s).rxValid = true ∧ (currentInputs s).rxData = 0x40 :=
  ⟨{ mk .sync (rx 0x40 true) with tmr := 499 }, by decide⟩

theorem wit_SettleWaitsAndThenLooksForTheLength :
    (∃ s : State, (currentInputs s).rst = false ∧ s.st = .settle ∧ s.params.tSettle ≤ s.tmr) ∧
    (∃ s : State, (currentInputs s).rst = false ∧ s.st = .settle ∧ s.tmr < s.params.tSettle ∧
      (currentInputs s).tick = false) ∧
    (∃ s : State, (currentInputs s).rst = false ∧ s.st = .settle ∧ s.tmr < s.params.tSettle ∧
      (currentInputs s).tick = true) :=
  ⟨⟨{ headed .settle (noRx false) with tmr := 1 }, by decide⟩, ⟨headed .settle (noRx false), by decide⟩,
   ⟨headed .settle (noRx true), by decide⟩⟩

theorem wit_LengthCheckHasThreeClauses :
    ∃ s : State, (currentInputs s).rst = false ∧ s.st = .lenwait ∧ s.tmr < s.params.tLen ∧
      (currentInputs s).rxValid = true :=
  ⟨{ headed .lenwait (rx 0x0E false) with tmr := 99 }, by decide⟩

theorem wit_ValidLengthIsAccepted :
    ∃ s : State, BufferOk s ∧ InvSentinel s ∧ (currentInputs s).rst = false ∧ s.st = .lenwait ∧ s.tmr < s.params.tLen ∧
      (currentInputs s).rxValid = true ∧ 1 ≤ (currentInputs s).rxData.toNat ∧
      (currentInputs s).rxData.toNat + 1 ≤ s.params.bufCap - 2 ∧
      (currentInputs s).rxData.toNat - 1 ≤ s.maxpay.toNat :=
  ⟨headed .lenwait (rx 0x0D true), by decide⟩

/-- The edge of R132's flag: L = 0xC0 with the smallest BUF_CAP and MAXPAY that admit it. -/
theorem wit_ValidLengthIsAccepted_zero_sum :
    ∃ s : State, BufferOk s ∧ InvSentinel s ∧ s.st = .lenwait ∧ s.tmr < s.params.tLen ∧
      (currentInputs s).rst = false ∧ (currentInputs s).rxValid = true ∧ (currentInputs s).rxData = 0xC0 ∧
      lenok s.params s.maxpay 0xC0 = true :=
  ⟨{ headed .lenwait (rx 0xC0 true) with maxpay := 191, params := { Config.reference with bufCap := 195 } }, by decide⟩

theorem wit_BodyByteIsStoredAndAdded :
    ∃ s : State, BufferOk s ∧ (currentInputs s).rst = false ∧ s.st = .body ∧ s.tmr < s.params.tBody ∧
      (currentInputs s).rxValid = true ∧ s.idx.toNat < s.len.toNat + 2 ∧ s.len.toNat + 3 ≤ s.params.bufCap :=
  ⟨inBody 14 0xA3 99 (rx 0x40 true), by decide⟩

theorem wit_ChecksumByteCompletesTheFrame :
    ∃ s : State, BufferOk s ∧ (currentInputs s).rst = false ∧ s.st = .body ∧ s.tmr < s.params.tBody ∧
      (currentInputs s).rxValid = true ∧ s.idx.toNat = s.len.toNat + 2 ∧ s.len.toNat + 3 ≤ s.params.bufCap :=
  ⟨inBody 15 0xA3 12 (rx 0x5D true), by decide⟩

theorem wit_WaitingPhasesOnlyCountTheTick :
    (∃ s : State, (currentInputs s).rst = false ∧ s.st = .sync ∧ s.tmr < s.tsync ∧
      (currentInputs s).rxValid = true ∧ (currentInputs s).rxData ≠ 0x40 ∧ (currentInputs s).tick = true) ∧
    (∃ s : State, (currentInputs s).rst = false ∧ s.st = .sync ∧ s.tmr < s.tsync ∧ (currentInputs s).rxValid = false ∧
      (currentInputs s).tick = false) ∧
    (∃ s : State, (currentInputs s).rst = false ∧ s.st = .lenwait ∧ s.tmr < s.params.tLen ∧
      (currentInputs s).rxValid = false) ∧
    (∃ s : State, (currentInputs s).rst = false ∧ s.st = .body ∧ s.tmr < s.params.tBody ∧
      (currentInputs s).rxValid = false) :=
  ⟨⟨{ mk .sync (rx 0x68 true) with tmr := 499 }, by decide⟩, ⟨mk .sync (noRx false), by decide⟩,
   ⟨{ headed .lenwait (noRx true) with tmr := 99 }, by decide⟩, ⟨inBody 7 0x74 99 (noRx true), by decide⟩⟩

theorem wit_FinishedAndIdleStatesHold :
    ((mk .idle (noRx true)).st = .idle ∧ (currentInputs (mk .idle (noRx true))).rst = false ∧
      fetchCommand (currentInputs (mk .idle (noRx true))) = none) ∧
    ((mk .done (commandInputs 0)).st = .done ∧ fetchCommand (currentInputs (mk .done (commandInputs 0))) = some .nop) ∧
    ((mk .error (commandInputs 0x10000000)).st = .error ∧
      fetchCommand (currentInputs (mk .error (commandInputs 0x10000000))) = some .start) := by decide

theorem wit_DegenerateSettingsFailAtOnce :
    (∃ (s : State) (c d : Inputs) (rest : List Inputs), s.inputs = c :: d :: rest ∧ busy s = false ∧ s.tsync = 0 ∧
      c.rst = false ∧ fetchCommand c = some .start ∧ d.rst = false) ∧
    (∃ s : State, (currentInputs s).rst = false ∧ s.st = .lenwait ∧ s.params.tLen = 0) ∧
    (∃ s : State, (currentInputs s).rst = false ∧ s.st = .body ∧ s.params.tBody = 0 ∧ s.idx = 2) ∧
    (∃ p : Config.Params, p.wf ∧ p.bufCap = 4) :=
  ⟨⟨{ State.reset with inputs := [commandInputs 0x10000000, rx 0x40 true] }, commandInputs 0x10000000, rx 0x40 true, [],
      by decide⟩,
   ⟨{ headed .lenwait (rx 0x0D false) with params := { Config.reference with tLen := 0 } }, by decide⟩,
   ⟨{ inBody 2 0x4D 0 (rx 0x04 false) with params := { Config.reference with tBody := 0 } }, by decide⟩,
   ⟨{ Config.reference with bufCap := 4 }, by decide⟩⟩

theorem wit_BufferStaysCanonical :
    (inBody 2 0x4D 0 (rx 0x04 false)).buf.wf (inBody 2 0x4D 0 (rx 0x04 false)).params.bufCap = true := by decide

theorem wit_EveryStepKeepsTheInvariants : Inv (running 3 0x83 0 (rx 0x40 true)) := by decide

theorem wit_ResetEstablishesTheInvariants :
    ∃ s : State, BufferOk s ∧ (currentInputs s).rst = true ∧ s.st = .unused7 :=
  ⟨mk .unused7 { noRx false with rst := true }, by decide⟩

theorem wit_BufferChangesOnlyAtIdx :
    Inv (running 3 0x83 0 (rx 0x40 true)) ∧
    (after (running 3 0x83 0 (rx 0x40 true))).map (fun t => bufRead t 3) = some 0x40 := ⟨by decide, by decide⟩

theorem wit_ErrorsRecordWhatHappened :
    Inv (running 3 0x83 100 (rx 0x40 true)) ∧ busy (running 3 0x83 100 (rx 0x40 true)) = true ∧
    (currentInputs (running 3 0x83 100 (rx 0x40 true))).rst = false ∧
    (after (running 3 0x83 100 (rx 0x40 true))).map State.err = some .shortRead :=
  ⟨by decide, by decide, by decide, by decide⟩

theorem wit_DoneHoldsTheFrameAndItsChecksum :
    ∃ s : State, Inv s ∧ (currentInputs s).rst = false ∧ s.st = .body ∧ s.tmr < s.params.tBody ∧
      (currentInputs s).rxValid = true ∧ s.idx.toNat = s.len.toNat + 2 :=
  ⟨running 4 0x83 5 (rx 0x7D true), by decide, by decide, by decide, by decide, by decide, by decide⟩

/-- A frame of length 2 in DONE, with MAXPAY at the least value that admits it. -/
def finishedShort (i : Inputs) : State :=
  { mk .done i with len := 2, idx := 5, acc := 0xC3, maxpay := 1,
                    buf := [(0, 0x40), (1, 0x02), (2, 0x41), (3, 0x40), (4, 0x3D)] }

theorem wit_StatedItemsHoldUntilTheHostWrites :
    Inv (finishedShort (commandInputs 0x30000001)) ∧ InvLengthStated (finishedShort (commandInputs 0x30000001)) ∧
    InvSumStated (finishedShort (commandInputs 0x30000001)) ∧
    fetchCommand (currentInputs (finishedShort (commandInputs 0x30000001))) = some (.maxpay 1) ∧
    (Inv (running 4 0x83 5 (rx 0x7D true)) ∧ (running 4 0x83 5 (rx 0x7D true)).st = .body) :=
  ⟨by decide, by decide, by decide, by decide, by decide, by decide⟩

/-- Log 9: whatever meaning MAXPAY has, if it writes MAXPAY when the block is not busy, as R163 says, it does not keep
R39's item 3 in DONE. So no machine follows both. -/
theorem maxpay_rule_ends_stated_item_three (meaning : Byte → State → State)
    (hR163 : ∀ m s, busy s = false → meaning m s = { s with maxpay := m }) :
    ¬ ∀ (m : Byte) (s : State), Inv s → InvLengthStated s → InvLengthStated (meaning m s) := by
  intro hkeeps
  have hdone := hkeeps 0 (finishedShort (noRx false)) (by decide) (by decide)
  rw [hR163 0 _ (by decide)] at hdone
  exact absurd hdone (by decide)

theorem wit_CsumSequenceComputesTheChecksum :
    ∃ (s : State) (c : Inputs) (cs rest : List Inputs), busy s = false ∧ s.inputs = c :: (cs ++ rest) ∧ c.rst = false ∧
      fetchCommand c = some .rclr ∧ raddOperands cs = [0x68, 0x01] ∧
      (∀ d ∈ cs, d.rst = false ∧
        (fetchCommand d = none ∨ fetchCommand d = some .nop ∨ ∃ b, fetchCommand d = some (.radd b))) := by
  refine ⟨{ State.reset with inputs := [commandInputs 0x40000000, commandInputs 0x50000068, noRx true,
      commandInputs 0x50000001] }, commandInputs 0x40000000,
    [commandInputs 0x50000068, noRx true, commandInputs 0x50000001], [], by decide, by decide, by decide, by decide,
    by decide, ?_⟩
  simp only [List.forall_mem_cons]
  exact ⟨⟨by decide, .inr (.inr ⟨0x68, by decide⟩)⟩, ⟨by decide, .inl (by decide)⟩,
    ⟨by decide, .inr (.inr ⟨0x01, by decide⟩)⟩, by simp⟩

theorem wit_ChecksumLaws :
    busy { mk .done (noRx false) with acc := 0xA3 } = false ∧
    (0xA3 : Byte).toNat = sumBytes [0x40, 0x63] % 256 ∧ [(1 : Byte), 2].Perm [2, 1] := by decide

theorem wit_AddingTheChecksumTestsTheFrame :
    busy { mk .done (noRx false) with acc := 0x45 } = false ∧
    { mk .done (noRx false) with acc := 0x45 }.acc.toNat = sumBytes [0x40, 0x01, 0x04] % 256 := by decide

/-- A cycle of the environment with a tick and nothing from the host. -/
def ticking : EnvCycle := { rst := false, cmdValid := false, cmdWord := 0, rdAddr := 0, tick := true, arrivals := [] }

/-- The shortest frame, behind one garbage byte, offered to an instance with T_SETTLE = 0. -/
def shortLine : Line :=
  { block := { mk .sync (noRx false) with params := { Config.reference with tSettle := 0 } },
    pending := [0x68, 0x40, 0x01, 0x04, 0xBB], taken := [] }

theorem shortLine_busy_before_done :
    ∀ k < 6, (lineRun ((List.replicate 6 ticking).take k) shortLine).map (fun n => busy n.block) = some true := by
  decide

theorem wit_BytesAreTakenInOrder :
    (fire (rx 0x40 true) (mk .sync (rx 0x40 true)) = true ∧ (mk .sync (rx 0x40 true)).st = .sync) ∧
    fire (rx 0x0E true) { headed .lenwait (rx 0x0E true) with tmr := 99 } = true ∧
    (Inv (running 4 0x83 99 (rx 0x7D true)) ∧ fire (rx 0x7D true) (running 4 0x83 99 (rx 0x7D true)) = true) ∧
    fire (rx 0x0D true) (headed .settle (rx 0x0D true)) = false :=
  ⟨by decide, by decide, ⟨by decide, by decide⟩, by decide⟩

theorem wit_FrameOutcomeFollowsTheBytesTaken :
    ∃ (es : List EnvCycle) (l m : Line), Inv l.block ∧ l.block.st = .sync ∧ l.taken = [] ∧
      (∀ e ∈ es, e.rst = false) ∧ lineRun es l = some m ∧ finished m.block = true ∧
      (∀ k n, k < es.length → lineRun (es.take k) l = some n → busy n.block = true) := by
  have hrun : ((lineRun (List.replicate 6 ticking) shortLine).map (fun m => finished m.block)) = some true := by decide
  obtain ⟨m, hm, hf⟩ := Option.map_eq_some_iff.mp hrun
  refine ⟨List.replicate 6 ticking, shortLine, m, by decide, rfl, rfl, by decide, hm, hf, fun k n hk hn => ?_⟩
  have := shortLine_busy_before_done k (by simpa using hk)
  rw [hn] at this
  exact Option.some.inj this

theorem wit_OfferedFrameReachesDone :
    ∃ (es : List EnvCycle) (l : Line) (g body rest : List Byte) (len : Byte),
      Inv l.block ∧ l.block.st = .sync ∧ l.block.tmr = 0 ∧ l.pending = g ++ 0x40 :: len :: body ++ rest ∧
      (0x40 : Byte) ∉ g ∧ lenok l.block.params l.block.maxpay len = true ∧ body.length = len.toNat + 1 ∧
      g.length < l.block.tsync.toNat ∧ 0 < l.block.params.tLen.toNat ∧
      (l.block.params.bodyMode = .total → len.toNat < l.block.params.tBody.toNat) ∧
      (l.block.params.bodyMode = .interByte → 0 < l.block.params.tBody.toNat) ∧
      (∀ e ∈ es, e.rst = false ∧ e.tick = true) ∧
      es.length = (g.length + 1) + (l.block.params.tSettle.toNat + 1) + 1 + (len.toNat + 1) :=
  ⟨List.replicate 6 ticking, shortLine, [0x68], [0x04, 0xBB], [], 0x01, by decide, by decide, by decide, by decide,
    by decide, by decide, by decide, by decide, by decide, by decide, by decide, by decide, by decide⟩

/-- The same frame in INTER_BYTE mode with T_BODY = 1, which is not above L. -/
def shortLineInterByte : Line :=
  { shortLine with block := { shortLine.block with
      params := { shortLine.block.params with bodyMode := .interByte, tBody := 1 } } }

theorem wit_OfferedFrameReachesDone_interByte :
    Inv shortLineInterByte.block ∧ shortLineInterByte.block.params.bodyMode = .interByte ∧
    shortLineInterByte.block.params.tBody.toNat = 1 ∧
    (lineRun (List.replicate 6 ticking) shortLineInterByte).map (fun m => (m.block.st, m.block.idx)) = some (.done, 4) :=
  ⟨by decide, by decide, by decide, by decide⟩

theorem wit_EveryFrameEndsWithinItsTicks :
    ∃ (s : State) (cs rest : List Inputs), Inv s ∧ s.st = .sync ∧ s.inputs = cs ++ rest ∧
      (∀ c ∈ cs, c.rst = false) ∧ frameTickBound s ≤ tickCount cs :=
  ⟨{ mk .sync (noRx false) with
      tsync := 1, params := { Config.reference with tSettle := 0, tLen := 1, tBody := 1 },
      inputs := List.replicate 7 (noRx true) }, List.replicate 7 (noRx true), [], by decide, by decide, by decide,
    by decide, by decide⟩

theorem wit_AssembledLinesDecodeToTheirOperations :
    assemble (.radd 0x93) = some (.cmd 0x50000093) ∧ (ReadName.buf 0xFF).address ≤ 0x1FF ∧
    assemble (.read .status) = some (.rdAddr 0x000) := by decide

/-- A POLL whose first READ comes in the cycle of the checksum byte, and one that is cut off before FIN shows. -/
theorem wit_PollEndsWithTheFirstReadThatShowsFin :
    (pollRun 3 { running 4 0x83 5 (rx 0x7D true) with inputs := [rx 0x7D true, noRx true] }).map (fun r => (r.1, r.2.st))
      = some (2, .done) ∧
    pollRun 1 (running 4 0x83 5 (noRx true)) = none := by decide

theorem wit_PollEndsWithTheFirstReadThatShowsFin_bound :
    ∃ (fuel : Nat) (s : State) (cs rest : List Inputs), Inv s ∧ s.st = .sync ∧ s.inputs = cs ++ rest ∧
      (∀ c ∈ cs, c.rst = false) ∧ frameTickBound s ≤ tickCount cs ∧ cs.length < fuel :=
  ⟨8, { mk .sync (noRx false) with
      tsync := 1, params := { Config.reference with tSettle := 0, tLen := 1, tBody := 1 },
      inputs := List.replicate 7 (noRx true) }, List.replicate 7 (noRx true), [], by decide, by decide, by decide,
    by decide, by decide, by decide⟩

end Sys2Proof.Tests
end

section
/-! PROOFS. What a cycle does to the flags and the phase timer, and what STATUS and the outputs show
(10_state.md R24, R25, R31, R35, R36). -/

namespace Sys2Proof.Machine

/-! ### The parts of a cycle, said once -/

theorem busy_eq_st_tests (s : State) :
    busy s = (s.st == .sync || s.st == .settle || s.st == .lenwait || s.st == .body) := by
  rw [Bool.eq_iff_iff, busy_iff]; simp [or_assoc]

theorem finished_eq_st_tests (s : State) : finished s = (s.st == .done || s.st == .error) := by
  rw [Bool.eq_iff_iff, finished_iff]; simp

theorem unlessBusy_ign (s t : State) : (unlessBusy s t).ign = (busy s || t.ign) := by
  obtain ⟨hb, h⟩ | ⟨hb, h⟩ := unlessBusy_cases s t <;> simp [h, hb]

theorem unlessBusy_ill (s t : State) : (unlessBusy s t).ill = if busy s then s.ill else t.ill := by
  obtain ⟨hb, h⟩ | ⟨hb, h⟩ := unlessBusy_cases s t <;> simp [h, hb]

theorem receiveOrReset_of_rst {c : Inputs} (h : c.rst = true) (s n : State) :
    receiveOrReset c s n = resetBlock n := by
  simp [receiveOrReset, h]

theorem receiveOrReset_of_busy {c : Inputs} {s : State} (h : c.rst = false) (hb : busy s = true) (n : State) :
    receiveOrReset c s n = receive c s n := by
  simp [receiveOrReset, h, hb]

theorem receiveOrReset_of_free {c : Inputs} {s : State} (h : c.rst = false) (hb : busy s = false) (n : State) :
    receiveOrReset c s n = n := by
  simp [receiveOrReset, h, hb]

/-- IGN passes the receiver: only the command part and reset write it. -/
theorem receiveOrReset_ign (c : Inputs) (s n : State) :
    (receiveOrReset c s n).ign = if c.rst then false else n.ign := by
  unfold receiveOrReset
  split
  · exact resetBlock_ign n
  · split
    · exact receive_ign c s n
    · rfl

/-- ILL passes the receiver: only the command part and reset write it. -/
theorem receiveOrReset_ill (c : Inputs) (s n : State) :
    (receiveOrReset c s n).ill = if c.rst then false else n.ill := by
  unfold receiveOrReset
  split
  · exact resetBlock_ill n
  · split
    · exact receive_ill c s n
    · rfl

/-- `rx_ready` by the comparisons of R36: TMR is below the limit of a phase that takes bytes. -/
theorem rxReady_iff_below_limit (rst : Bool) (s : State) :
    rxReady rst s = true ↔ rst = false ∧
      ((s.st = .sync ∧ s.tmr < s.tsync) ∨ (s.st = .lenwait ∧ s.tmr < s.params.tLen) ∨
        (s.st = .body ∧ s.tmr < s.params.tBody)) := by
  simp [rxReady, or_assoc]

/-! ### Illegal words -/

/-- The decoder's table names no illegal operation: a word becomes one only when no row fits. -/
theorem classify_ne_illegal (w v : Word) : classify w ≠ .ok (.illegal v) := by
  unfold classify
  repeat' split
  all_goals simp

/-- An illegal operation carries the word it was decoded from (30_encoding.md R75). -/
theorem eq_of_decodeWord_illegal {w v : Word} (h : decodeWord w = .illegal v) : v = w := by
  unfold decodeWord at h
  split at h
  case h_1 i hi => exact absurd (h ▸ hi) (classify_ne_illegal w v)
  case h_2 => exact (Instr.illegal.inj h).symm

/-- The command of a cycle is illegal exactly when an illegal word is presented outside reset. -/
theorem fetchCommand_illegal_iff (c : Inputs) (v : Word) :
    fetchCommand c = some (.illegal v) ↔
      v = c.cmdWord ∧ c.rst = false ∧ c.cmdValid = true ∧ decodeWord c.cmdWord = .illegal c.cmdWord := by
  have hword : decodeWord c.cmdWord = .illegal v ↔
      v = c.cmdWord ∧ decodeWord c.cmdWord = .illegal c.cmdWord :=
    ⟨fun h => ⟨eq_of_decodeWord_illegal h, eq_of_decodeWord_illegal h ▸ h⟩, fun ⟨h, hd⟩ => h ▸ hd⟩
  cases hr : c.rst <;> cases hc : c.cmdValid <;> simp [fetchCommand, decode, hr, hc, hword]

/-! ### The command part -/

/-- What the command part leaves in ILL: an illegal word sets it, and an accepted START clears it. -/
theorem commandResult_ill (s : State) :
    (commandResult s).ill = if fetchCommand (currentInputs s) = some (.illegal (currentInputs s).cmdWord) then true
      else if fetchCommand (currentInputs s) = some .start ∧ busy s = false then false else s.ill := by
  unfold commandResult
  cases hf : fetchCommand (currentInputs s) with
  | none => simp
  | some i =>
    cases i with
    | illegal v => simp [((fetchCommand_illegal_iff _ v).mp hf).1]
    | start => cases hb : busy s <;> simp [unlessBusy_ill, hb]
    | tsync _ | maxpay _ | rclr | radd _ => simp [unlessBusy_ill]
    | nop | read _ => simp

/-- In a state that is not busy the command part writes TMR only for START. -/
theorem commandResult_tmr_free {s : State} (hb : busy s = false) :
    (commandResult s).tmr = if fetchCommand (currentInputs s) = some .start then 0 else s.tmr := by
  unfold commandResult
  cases fetchCommand (currentInputs s) with
  | none => simp
  | some i => cases i <;> simp [unlessBusy_free hb]

/-- IGN has no influence on a command's effect: outside IGN, both sides of R164 are the same for either value of it. -/
theorem unlessBusy_of_ign (s t : State) (b b' : Bool) :
    { unlessBusy { s with ign := b } { t with ign := b' } with ign := (unlessBusy s t).ign } = unlessBusy s t := by
  have hsame : busy { s with ign := b } = busy s := rfl
  cases hb : busy s
  · rw [unlessBusy_free hb, unlessBusy_free (hsame.trans hb)]
  · rw [unlessBusy_busy hb, unlessBusy_busy (hsame.trans hb)]

/-- No command reads IGN (10_state.md R24): with any value of IGN it writes the same in every other field. -/
theorem exec_of_ign (i : Instr) (s : State) (b : Bool) (hread : ∀ a, i ≠ .read a) :
    ∃ t u, exec i s = .next t ∧ exec i { s with ign := b } = .next u ∧ { u with ign := t.ign } = t := by
  cases i with
  | nop | illegal _ => exact ⟨_, _, rfl, rfl, rfl⟩
  | start => exact ⟨_, _, rfl, rfl, unlessBusy_of_ign s (startFrame s) b false⟩
  | tsync t => exact ⟨_, _, rfl, rfl, unlessBusy_of_ign s { s with tsync := t } b b⟩
  | maxpay m => exact ⟨_, _, rfl, rfl, unlessBusy_of_ign s { s with maxpay := m } b b⟩
  | rclr => exact ⟨_, _, rfl, rfl, unlessBusy_of_ign s { s with acc := 0 } b b⟩
  | radd v => exact ⟨_, _, rfl, rfl, unlessBusy_of_ign s { s with acc := addMod256 s.acc v } b b⟩
  | read a => exact absurd rfl (hread a)

/-! ### The phase timer -/

/-- The stored byte that restarts the timer in INTER_BYTE mode (R136). -/
abbrev Restarts (c : Inputs) (s : State) : Prop :=
  s.st = .body ∧ s.params.bodyMode = .interByte ∧ fire c s = true ∧ s.idx.toNat < s.len.toNat + 2

/-- What R31 says of TMR in a busy cycle from `s` to `t`. -/
def BusyTimerRule (c : Inputs) (s t : State) : Prop :=
  (t.st ≠ s.st → (t.st = .settle ∨ t.st = .lenwait ∨ t.st = .body) → t.tmr = 0) ∧
  (t.st ≠ s.st → (t.st = .done ∨ t.st = .error) → t.tmr = s.tmr) ∧
  (t.st = s.st →
    if Restarts c s then t.tmr = 0
    else if c.tick then t.tmr.toNat = min (s.tmr.toNat + 1) 0xFFFF
    else t.tmr = s.tmr)

/-- A move into the next phase sets TMR to 0. -/
theorem BusyTimerRule.of_phase_start {c : Inputs} {s t : State} (hmove : t.st ≠ s.st) (hdone : t.st ≠ .done)
    (herror : t.st ≠ .error) (htmr : t.tmr = 0) : BusyTimerRule c s t :=
  ⟨fun _ _ => htmr, fun _ h => absurd h (by simp [hdone, herror]), fun h => absurd h hmove⟩

/-- The end of the frame holds TMR. -/
theorem BusyTimerRule.of_frame_end {c : Inputs} {s t : State} (hmove : t.st ≠ s.st)
    (hend : t.st = .done ∨ t.st = .error) (htmr : t.tmr = s.tmr) : BusyTimerRule c s t := by
  refine ⟨fun _ h => ?_, fun _ _ => htmr, fun h => absurd h hmove⟩
  rcases hend with he | he <;> simp [he] at h

/-- A cycle that stays in its phase counts the tick, unless a stored byte restarts the timer. -/
theorem BusyTimerRule.of_tick {c : Inputs} {s t : State} (hstay : t.st = s.st) (hrestart : ¬ Restarts c s)
    (htmr : t.tmr = tinc c.tick s.tmr) : BusyTimerRule c s t := by
  refine ⟨fun h => absurd hstay h, fun h => absurd hstay h, fun _ => ?_⟩
  rw [if_neg hrestart]
  split
  case isTrue hk => simp [htmr, tinc_toNat, hk]
  case isFalse hk => simp [htmr, tinc, hk]

/-- A stored byte before the last restarts the timer in INTER_BYTE mode. -/
theorem BusyTimerRule.of_restart {c : Inputs} {s t : State} (hstay : t.st = s.st) (hrestart : Restarts c s)
    (htmr : t.tmr = 0) : BusyTimerRule c s t := by
  refine ⟨fun h => absurd hstay h, fun h => absurd hstay h, fun _ => ?_⟩
  rwa [if_pos hrestart]

section
variable {c : Inputs} {s n : State}

theorem receiveSync_busyTimerRule (hs : s.st = .sync) (hst : n.st = s.st) (htmr : n.tmr = s.tmr) :
    BusyTimerRule c s (receiveSync c s n) := by
  obtain ⟨-, h⟩ | ⟨-, -, -, h⟩ | ⟨-, -, h⟩ := receiveSync_cases c s n <;> rw [h]
  · exact .of_frame_end (by simp [hs]) (by simp) (by simp [htmr])
  · exact .of_phase_start (by simp [hs]) (by simp) (by simp) (by simp)
  · exact .of_tick (by simp [hst]) (by simp [hs]) (by simp)

theorem receiveSettle_busyTimerRule (hs : s.st = .settle) (hst : n.st = s.st) :
    BusyTimerRule c s (receiveSettle c s n) := by
  obtain ⟨-, h⟩ | ⟨-, h⟩ := receiveSettle_cases c s n <;> rw [h]
  · exact .of_phase_start (by simp [hs]) (by simp) (by simp) rfl
  · exact .of_tick (by simp [hst]) (by simp [hs]) (by simp)

theorem receiveLenwait_busyTimerRule (hs : s.st = .lenwait) (hst : n.st = s.st) (htmr : n.tmr = s.tmr) :
    BusyTimerRule c s (receiveLenwait c s n) := by
  obtain ⟨-, h⟩ | ⟨-, -, -, h⟩ | ⟨-, -, -, h⟩ | ⟨-, -, h⟩ := receiveLenwait_cases c s n <;> rw [h]
  · exact .of_frame_end (by simp [hs]) (by simp) (by simp [htmr])
  · exact .of_phase_start (by simp [hs]) (by simp) (by simp) (by simp)
  · exact .of_frame_end (by simp [hs]) (by simp) (by simp [htmr])
  · exact .of_tick (by simp [hst]) (by simp [hs]) (by simp)

/-- A byte stored in BODY counts the tick or restarts the timer, by BODY_MODE. -/
theorem storeBodyByte_busyTimerRule (hs : s.st = .body) (hst : n.st = s.st) (hfire : fire c s = true)
    (hidx : s.idx.toNat < s.len.toNat + 2) : BusyTimerRule c s (storeBodyByte c s n) := by
  cases hm : s.params.bodyMode with
  | total => exact .of_tick (by simp [hst]) (by simp [hm]) (by simp [hm])
  | interByte => exact .of_restart (by simp [hst]) ⟨hs, hm, hfire, hidx⟩ (by simp [hm])

theorem receiveBody_busyTimerRule (hr : c.rst = false) (hs : s.st = .body) (hst : n.st = s.st)
    (htmr : n.tmr = s.tmr) : BusyTimerRule c s (receiveBody c s n) := by
  obtain ⟨-, h⟩ | ⟨he, hv, hidx, h⟩ | ⟨-, -, -, h⟩ | ⟨-, -, hidx, h⟩ | ⟨-, hv, h⟩ :=
    receiveBody_cases c s n <;> rw [h]
  · exact .of_frame_end (by simp [hs]) (by simp) (by simp [htmr])
  · have hready : rxReady c.rst s = true := (rxReady_iff _ s).mpr ⟨hr, by simp [hs], he⟩
    exact storeBodyByte_busyTimerRule hs hst (by simp [fire, hv, hready]) hidx
  · exact .of_frame_end (by simp [hs]) (by simp) (by simp [htmr])
  · exact .of_tick (by simp [hst]) (fun ⟨_, _, _, hlt⟩ => absurd hlt (by omega)) (by simp)
  · exact .of_tick (by simp [hst]) (by simp [fire, hv]) (by simp)

/-- The receiver keeps R31 in every phase. -/
theorem receive_busyTimerRule (hr : c.rst = false) (hb : busy s = true) (hst : n.st = s.st) (htmr : n.tmr = s.tmr) :
    BusyTimerRule c s (receive c s n) := by
  obtain hs | hs | hs | hs := (busy_iff s).mp hb
  · exact receive_sync hs c n ▸ receiveSync_busyTimerRule hs hst htmr
  · exact receive_settle hs c n ▸ receiveSettle_busyTimerRule hs hst
  · exact receive_lenwait hs c n ▸ receiveLenwait_busyTimerRule hs hst htmr
  · exact receive_body hs c n ▸ receiveBody_busyTimerRule hr hs hst htmr

end

/-! ### STATUS -/

theorem readPort_status (s : State) : readPort s 0x000 = status s := if_pos rfl

/-- The layout of STATUS (R35), bit by bit. -/
theorem status_getLsbD (s : State) {i : Nat} (hi : i < 16) :
    (status s).getLsbD i =
      if i < 3 then s.st.code.getLsbD i
      else if i = 3 then false
      else if i < 7 then s.err.code.getLsbD (i - 4)
      else if i = 7 then false
      else if i = 8 then s.ign
      else if i = 9 then s.ill
      else if i = 10 then zeroFlag s
      else if i = 11 then busy s
      else if i = 12 then finished s
      else false := by
  interval_cases i <;> simp only [status, BitVec.getLsbD_append] <;> simp

theorem status_st (s : State) : (status s).extractLsb' 0 3 = s.st.code := by
  ext i hi
  rw [BitVec.getElem_extractLsb', status_getLsbD s (by omega)]
  interval_cases i <;> rfl

theorem status_err (s : State) : (status s).extractLsb' 4 3 = s.err.code := by
  ext i hi
  rw [BitVec.getElem_extractLsb', status_getLsbD s (by omega)]
  interval_cases i <;> rfl

theorem status_high (s : State) : (status s).extractLsb' 13 3 = 0 := by
  ext i hi
  rw [BitVec.getElem_extractLsb', status_getLsbD s (by omega)]
  interval_cases i <;> simp

theorem status_ign (s : State) : (status s).getLsbD 8 = s.ign := status_getLsbD s (i := 8) (by decide)

theorem status_ill (s : State) : (status s).getLsbD 9 = s.ill := status_getLsbD s (i := 9) (by decide)

theorem status_zero (s : State) : (status s).getLsbD 10 = (s.acc == 0) := status_getLsbD s (i := 10) (by decide)

theorem status_busy (s : State) : (status s).getLsbD 11 = busy s := status_getLsbD s (i := 11) (by decide)

theorem status_fin (s : State) : (status s).getLsbD 12 = finished s := status_getLsbD s (i := 12) (by decide)

theorem status_reserved (s : State) : (status s).getLsbD 3 = false ∧ (status s).getLsbD 7 = false :=
  ⟨status_getLsbD s (i := 3) (by decide), status_getLsbD s (i := 7) (by decide)⟩

/-! ### The obligations -/

/-- Settles O22: IGN is what the command part leaves, since the receiver passes it, and a command reads `busy` alone. -/
theorem ignIsSticky : Obligations.IgnIsSticky := by
  refine ⟨fun s => ⟨_, step_eq s, ?_⟩, fun s => readPort_status s ▸ status_ign s, exec_of_ign⟩
  rw [endOfCycle_ign, receiveOrReset_ign]
  unfold commandResult
  cases fetchCommand (currentInputs s) with
  | none => rfl
  | some i => cases i <;> simp [unlessBusy_ign, Bool.or_comm]

/-- Settles O23: ILL is what the command part leaves, since the receiver passes it. -/
theorem illIsSticky : Obligations.IllIsSticky := by
  refine ⟨fun s => ⟨_, step_eq s, ?_⟩, fun s => readPort_status s ▸ status_ill s⟩
  rw [endOfCycle_ill, receiveOrReset_ill, commandResult_ill]
  cases hr : (currentInputs s).rst
  · simp [fetchCommand_illegal_iff, hr]
  · rfl

/-- Settles O24, by the class of the state: the receiver writes TMR while busy, and the command part otherwise. -/
theorem timerCountsTicksOfThePhase : Obligations.TimerCountsTicksOfThePhase := by
  refine fun s => ⟨_, step_eq s, fun hr => ?_, fun hr hb => ?_, fun hr hb => ?_⟩
  · rw [endOfCycle_tmr, receiveOrReset_of_rst hr, resetBlock_tmr]
  · rw [endOfCycle_tmr, receiveOrReset_of_free hr hb, commandResult_tmr_free hb]
  · rw [receiveOrReset_of_busy hr hb, commandResult_busy hb]
    exact receive_busyTimerRule hr hb (withCommandFlags_st _ s) (withCommandFlags_tmr _ s)

/-- Settles O25, field by field. -/
theorem statusShowsItsFields : Obligations.StatusShowsItsFields := fun s =>
  ⟨readPort_status s, (status_st s).trans rfl, (status_reserved s).1, (status_err s).trans rfl,
    (status_reserved s).2, status_ign s, status_ill s, status_zero s, (status_busy s).trans (busy_eq_st_tests s),
    (status_fin s).trans (finished_eq_st_tests s), status_high s⟩

/-- Settles O28: the cycle records its outputs from the state at its start. -/
theorem outputsFollowTheState : Obligations.OutputsFollowTheState := fun s =>
  ⟨_, step_eq s, rxReady_iff_below_limit _ s, busy_iff s, finished_iff s, rfl⟩

end Sys2Proof.Machine
end

section
/-! PROOFS. What the read port shows at every address (20_memory.md R51 to R53). -/

namespace Sys2Proof.Machine

/-! ### The read port, region by region -/

section
variable (s : State)

/-- The registers and views narrower than `rd_data` keep their numbers, zero-extended (R51). -/
theorem readPort_narrow_toNat :
    (readPort s 0x001).toNat = s.len.toNat ∧ (readPort s 0x002).toNat = s.idx.toNat ∧
    (readPort s 0x003).toNat = s.acc.toNat ∧ (readPort s 0x004).toNat = (chk s).toNat ∧
    (readPort s 0x007).toNat = s.maxpay.toNat :=
  have hbyte : 8 ≤ 16 := by decide
  have hindex : 9 ≤ 16 := by decide
  ⟨BitVec.toNat_setWidth_of_le hbyte, BitVec.toNat_setWidth_of_le hindex, BitVec.toNat_setWidth_of_le hbyte,
    BitVec.toNat_setWidth_of_le hbyte, BitVec.toNat_setWidth_of_le hbyte⟩

/-- The 16-bit registers and parameters, shown as they are (R51). -/
theorem readPort_halves :
    readPort s 0x005 = s.tmr ∧ readPort s 0x006 = s.tsync ∧ readPort s 0x009 = s.params.tSettle ∧
    readPort s 0x00A = s.params.tLen ∧ readPort s 0x00B = s.params.tBody := ⟨rfl, rfl, rfl, rfl, rfl⟩

theorem readPort_bufCap : readPort s 0x008 = BitVec.ofNat 16 s.params.bufCap := rfl

theorem readPort_bodyMode : readPort s 0x00C = bodyModeCode s.params.bodyMode := rfl

variable {a : RdAddr}

/-- Past the last name, the address space holds the reserved addresses and then the BUF window. -/
theorem readPort_above_names (ha : 0x00D ≤ a.toNat) :
    readPort s a = if a < 0x100 then 0 else readWindow s (a.toNat - 0x100) := by
  have hname {k : RdAddr} (hk : k < 0x00D) : a ≠ k := by rintro rfl; exact absurd hk (by bv_omega)
  simp [readPort, hname]

/-- A reserved address reads 0 (R53). -/
theorem readPort_reserved (hlo : 0x00D ≤ a.toNat) (hhi : a.toNat ≤ 0x0FF) : readPort s a = 0 := by
  rw [readPort_above_names s hlo, if_pos (by bv_omega)]

theorem readPort_window (ha : 0x100 ≤ a.toNat) : readPort s a = readWindow s (a.toNat - 0x100) := by
  rw [readPort_above_names s (by omega), if_neg (by bv_omega)]

end

/-! ### The values shown -/

/-- A legal BUF_CAP fits the 16 bits of the read port. -/
theorem bufCap_toNat {p : Config.Params} (h : p.wf) : (BitVec.ofNat 16 p.bufCap).toNat = p.bufCap := by
  obtain ⟨-, hmax⟩ := h
  rw [BitVec.toNat_ofNat, Nat.mod_eq_of_lt (by omega)]

theorem bodyModeCode_eq (m : Config.BodyMode) : bodyModeCode m = if m = .interByte then 1 else 0 := by
  cases m <;> rfl

/-- The window is the whole buffer and reads 0 at or above BUF_CAP (R52, R53). -/
theorem readWindow_toNat (s : State) (i : Nat) :
    (readWindow s i).toNat = if i < s.params.bufCap then (bufRead s i).toNat else 0 := by
  unfold readWindow
  split
  · exact BitVec.toNat_setWidth_of_le (by decide)
  · rfl

/-! ### The obligation -/

/-- Settles O26, region by region: the names of R51, the reserved addresses, and the BUF window. -/
theorem readPortFollowsTheAddressMap : Obligations.ReadPortFollowsTheAddressMap := by
  intro s
  obtain ⟨hlen, hidx, hacc, hchk, hmaxpay⟩ := readPort_narrow_toNat s
  obtain ⟨htmr, htsync, htSettle, htLen, htBody⟩ := readPort_halves s
  have hneg : (chk s).toNat = (256 - s.acc.toNat) % 256 := neg8_toNat s.acc
  exact ⟨readPort_status s, hlen, hidx, hacc, hchk.trans hneg, htmr, htsync, hmaxpay,
    fun hwf => readPort_bufCap s ▸ bufCap_toNat hwf, htSettle, htLen, htBody,
    (readPort_bodyMode s).trans (bodyModeCode_eq _), fun _ => readPort_reserved s,
    fun _ ha => readPort_window s ha ▸ readWindow_toNat s _⟩

end Sys2Proof.Machine
end

section
/-! PROOFS. Which command words are ILLEGAL, and that one only sets ILL (30_encoding.md R75,
42_config_and_access.md R165). -/

namespace Sys2Proof.Machine

/-! ### The illegal words -/

/-- A word is ILLEGAL exactly when the decode table gives a reason. -/
theorem decodeWord_illegal_iff_error (w : Word) : decodeWord w = .illegal w ↔ ∃ r, classify w = .error r := by
  unfold decodeWord
  cases h : classify w with
  | error r => simp
  | ok i =>
    have hi : i ≠ .illegal w := fun hi => classify_ne_illegal w w (h.trans (congrArg _ hi))
    simp [hi]

/-- The ILLEGAL words by their fields: the four cases of R75, read off the decode table row by row. -/
theorem decodeWord_illegal_iff (w : Word) :
    decodeWord w = .illegal w ↔
      0x6 ≤ (opField w).toNat ∨ rsvField w ≠ 0 ∨
      ((opField w = 0x0 ∨ opField w = 0x1 ∨ opField w = 0x4) ∧ immField w ≠ 0) ∨
      ((opField w = 0x3 ∨ opField w = 0x5) ∧ immHigh w ≠ 0) := by
  have hfield (k : BitVec 4) : opField w = k ↔ (opField w).toNat = k.toNat := BitVec.toNat_inj.symm
  rw [decodeWord_illegal_iff_error]
  simp only [hfield]
  unfold classify
  by_cases hrsv : rsvField w = 0#12
  · rw [if_neg (show ¬ rsvField w ≠ 0 from not_not_intro hrsv)]
    split
    case h_1 hop | h_2 hop | h_5 hop => by_cases himm : immField w = 0#16 <;> simp [hop, hrsv, himm]
    case h_3 hop => simp [hop, hrsv]
    case h_4 hop | h_6 hop => by_cases himm : immHigh w = 0#8 <;> simp [hop, hrsv, himm]
    case h_7 =>
      have hop : 0x6 ≤ (opField w).toNat := by grind
      exact ⟨fun _ => .inl hop, fun _ => ⟨.reservedOp, rfl⟩⟩
  · simp [hrsv]

/-! ### The rest of a cycle does not see the command port -/

/-- The receiver does not look at the listed inputs of the state it writes. -/
theorem receive_setInputs (c : Inputs) (s n : State) (l : List Inputs) :
    receive c s { n with inputs := l } = { receive c s n with inputs := l } := by
  unfold receive receiveSync receiveSettle receiveLenwait receiveBody
  repeat' split
  all_goals rfl

/-- The receiver does not look at ILL. -/
theorem receive_setIll (c : Inputs) (s n : State) (b : Bool) :
    receive c s { n with ill := b } = { receive c s n with ill := b } := by
  unfold receive receiveSync receiveSettle receiveLenwait receiveBody
  repeat' split
  all_goals rfl

theorem receiveOrReset_setInputs (c : Inputs) (s n : State) (l : List Inputs) :
    receiveOrReset c s { n with inputs := l } = { receiveOrReset c s n with inputs := l } := by
  unfold receiveOrReset
  split
  · rfl
  · split
    · exact receive_setInputs c s n l
    · rfl

theorem receiveOrReset_setIll {c : Inputs} (h : c.rst = false) (s n : State) (b : Bool) :
    receiveOrReset c s { n with ill := b } = { receiveOrReset c s n with ill := b } := by
  cases hb : busy s
  · simp only [receiveOrReset_of_free h hb]
  · simp only [receiveOrReset_of_busy h hb, receive_setIll]

/-- A step by what its command part made of the block: nothing else in it sees the command port. -/
theorem step_of_commandResult {s n : State} {c : Inputs} {v : Bool} {w : Word} {l : List Inputs}
    (h : commandResult (withInputs s { c with cmdValid := v, cmdWord := w }) = { n with inputs := l }) :
    step (withInputs s { c with cmdValid := v, cmdWord := w }) =
      .next (endOfCycle (withInputs s c) (receiveOrReset c (withInputs s c) n)) := by
  rw [step_eq, h, receiveOrReset_setInputs]
  rfl

/-! ### Cycles with no command, and with an illegal one -/

theorem commandResult_of_not_valid {s : State} (h : (currentInputs s).cmdValid = false) : commandResult s = s := by
  have hnone : fetchCommand (currentInputs s) = none := by simp [fetchCommand, h]
  simp [commandResult, hnone]

theorem commandResult_of_illegal {s : State} {w : Word} (h : fetchCommand (currentInputs s) = some (.illegal w)) :
    commandResult s = { s with ill := true } := by
  simp [commandResult, h]

/-- The step of a cycle with `cmd_valid = 0`, in which the word does not stand: it has no effect (R75). -/
theorem step_of_not_valid (s : State) (c : Inputs) (w : Word) :
    step (withInputs s { c with cmdValid := false, cmdWord := w }) =
      .next (endOfCycle (withInputs s c) (receiveOrReset c (withInputs s c) s)) :=
  step_of_commandResult (commandResult_of_not_valid rfl)

/-- An illegal word presented outside reset adds ILL to what the cycle does without a command (R165). -/
theorem step_of_illegal (s : State) {c : Inputs} {w : Word} (hr : c.rst = false) (hw : decodeWord w = .illegal w) :
    step (withInputs s { c with cmdValid := true, cmdWord := w }) =
      .next { endOfCycle (withInputs s c) (receiveOrReset c (withInputs s c) s) with ill := true } := by
  have hfetch : fetchCommand { c with cmdValid := true, cmdWord := w } = some (.illegal w) :=
    (fetchCommand_illegal_iff _ w).mpr ⟨rfl, hr, rfl, hw⟩
  have hresult : commandResult (withInputs s { c with cmdValid := true, cmdWord := w }) =
      { s with ill := true, inputs := { c with cmdValid := true, cmdWord := w } :: s.inputs.tail } :=
    commandResult_of_illegal hfetch
  rw [step_of_commandResult (n := { s with ill := true }) hresult, receiveOrReset_setIll hr]
  rfl

/-! ### The obligation -/

/-- Settles O4: the illegal words from the decode table, and their effect from the parts of a cycle, of which only the
command part sees the command port. -/
theorem illegalWordsOnlySetIll : Obligations.IllegalWordsOnlySetIll :=
  ⟨decodeWord_illegal_iff,
    fun s c _ hr hw => ⟨_, step_of_not_valid s c c.cmdWord, step_of_illegal s hr hw⟩,
    fun s c w => (step_of_not_valid s c w).trans (step_of_not_valid s c c.cmdWord).symm⟩

end Sys2Proof.Machine
end

section
/-! PROOFS. The reducer commands and the checksum function (40_checksum_reducer.md sections 1 and 2). -/

namespace Sys2Proof.Machine

/-! ### The fields of a command word, as numbers -/

section
variable (w : Word)

theorem opField_toNat : (opField w).toNat = w.toNat / 2 ^ 28 := by
  rw [opField, BitVec.extractLsb'_toNat, Nat.shiftRight_eq_div_pow, Nat.mod_eq_of_lt (by omega)]

theorem rsvField_toNat : (rsvField w).toNat = w.toNat / 2 ^ 16 % 2 ^ 12 := by
  rw [rsvField, BitVec.extractLsb'_toNat, Nat.shiftRight_eq_div_pow]

theorem immField_toNat : (immField w).toNat = w.toNat % 2 ^ 16 := by
  rw [immField, BitVec.extractLsb'_toNat, Nat.shiftRight_zero]

theorem immHigh_toNat : (immHigh w).toNat = w.toNat / 2 ^ 8 % 2 ^ 8 := by
  rw [immHigh, BitVec.extractLsb'_toNat, Nat.shiftRight_eq_div_pow]

theorem immLow_toNat : (immLow w).toNat = w.toNat % 2 ^ 8 := by
  rw [immLow, BitVec.extractLsb'_toNat, Nat.shiftRight_zero]

end

/-- The fields hold every bit of a word (30_encoding.md R70). -/
theorem eq_of_fields_eq {v w : Word} (hop : opField v = opField w) (hrsv : rsvField v = rsvField w)
    (himm : immField v = immField w) : v = w := by
  apply BitVec.eq_of_toNat_eq
  rw [← BitVec.toNat_inj, opField_toNat, opField_toNat] at hop
  rw [← BitVec.toNat_inj, rsvField_toNat, rsvField_toNat] at hrsv
  rw [← BitVec.toNat_inj, immField_toNat, immField_toNat] at himm
  omega

/-! ### The words of RCLR and RADD -/

/-- RCLR has one word (R73): the word of format Z with OP = 4. -/
theorem eq_rclrWord_of_fields {w : Word} (hop : opField w = 0x4) (hrsv : rsvField w = 0) (himm : immField w = 0) :
    w = 0x40000000 :=
  eq_of_fields_eq (hop.trans (by decide)) (hrsv.trans (by decide)) (himm.trans (by decide))

theorem raddWord_toNat (b : Byte) : (0x50000000#32 ||| b.zeroExtend 32).toNat = 0x50000000 + b.toNat := by
  have hlow : 2 ^ 8 * 0x500000 + b.toNat = 2 ^ 8 * 0x500000 ||| b.toNat := Nat.two_pow_add_eq_or_of_lt b.isLt _
  have hb : (b.zeroExtend 32).toNat = b.toNat := BitVec.toNat_setWidth_of_le (by decide)
  rw [BitVec.toNat_or, hb]
  exact hlow.symm

theorem classify_radd {w : Word} (hop : opField w = 0x5) (hrsv : rsvField w = 0) (hhigh : immHigh w = 0) :
    classify w = .ok (.radd (immLow w)) := by
  simp [classify, hop, hrsv, hhigh]

/-- The RADD word decodes to RADD of the operand in its low byte. -/
theorem decodeWord_raddWord (b : Byte) : decodeWord (0x50000000#32 ||| b.zeroExtend 32) = .radd b := by
  have hw := raddWord_toNat b
  generalize 0x50000000#32 ||| b.zeroExtend 32 = w at hw
  have hop : opField w = 0x5 := BitVec.eq_of_toNat_eq ((opField_toNat w).trans (by bv_omega))
  have hrsv : rsvField w = 0 := BitVec.eq_of_toNat_eq ((rsvField_toNat w).trans (by bv_omega))
  have hhigh : immHigh w = 0 := BitVec.eq_of_toNat_eq ((immHigh_toNat w).trans (by bv_omega))
  have hlow : immLow w = b := BitVec.eq_of_toNat_eq ((immLow_toNat w).trans (by bv_omega))
  simp [decodeWord, classify_radd hop hrsv hhigh, hlow]

/-! ### The effects -/

theorem exec_rclr (s : State) : exec .rclr s = .next (unlessBusy s { s with acc := 0 }) := rfl

theorem exec_radd (b : Byte) (s : State) :
    exec (.radd b) s = .next (unlessBusy s { s with acc := addMod256 s.acc b }) := rfl

theorem zeroFlag_iff (s : State) : zeroFlag s = true ↔ s.acc = 0 := beq_iff_eq

theorem zeroFlag_iff_toNat (s : State) : zeroFlag s = true ↔ s.acc.toNat = 0 :=
  (zeroFlag_iff s).trans BitVec.toNat_inj.symm

/-- A byte takes the accumulator to 0 exactly when it is the accumulator's negation. -/
theorem addMod256_eq_zero_iff (a b : Byte) : addMod256 a b = 0 ↔ b = neg8 a := by
  rw [addMod256_eq_add, neg8_eq_neg]
  exact add_eq_zero_iff_neg_eq.trans eq_comm

/-! ### The obligations -/

/-- Settles O11: outside the one RCLR word a field of format Z is not 0, and the effect is R102's, by `unlessBusy`. -/
theorem rclrClearsTheReducer : Obligations.RclrClearsTheReducer := by
  refine ⟨by decide, fun w hop hne => ?_, fun s hb => ?_, fun s hb => ?_⟩
  · rw [decodeWord_illegal_iff]
    by_cases hrsv : rsvField w = 0
    · have himm : immField w ≠ 0 := fun himm => hne (eq_rclrWord_of_fields hop hrsv himm)
      exact .inr (.inr (.inl ⟨.inr (.inr hop), himm⟩))
    · exact .inr (.inl hrsv)
  · rw [exec_rclr, unlessBusy_free hb]
    exact ⟨rfl, neg8_eq_neg 0, rfl⟩
  · rw [exec_rclr, unlessBusy_busy hb]

/-- Settles O12: ZERO and CHK follow the new accumulator, which is 0 exactly for the negation of the old one, and that
is the checksum of the bytes it holds. -/
theorem raddAddsAByte : Obligations.RaddAddsAByte := by
  refine ⟨decodeWord_raddWord, fun w hop hhigh => ?_, fun s b hb => ?_, fun s b hb => ?_⟩
  · exact (decodeWord_illegal_iff w).mpr (.inr (.inr (.inr ⟨.inr hop, hhigh⟩)))
  · have hsum := addMod256_toNat s.acc b
    rw [exec_radd, unlessBusy_free hb]
    refine ⟨_, rfl, rfl, hsum, ?_, ?_, (addMod256_eq_zero_iff s.acc b).mpr, fun bs hbs => ?_⟩
    · rw [zeroFlag_iff_toNat, hsum]
    · rw [chk, neg8_toNat, hsum]
    · rw [zeroFlag_iff, addMod256_eq_zero_iff, ← chk_eq_compute hbs, chk]
  · rw [exec_radd, unlessBusy_busy hb]

/-- Settles O49: 256 divides 65536, so both forms are the negation of the sum modulo 256 (90_conflicts.md C3). -/
theorem computeHasTwoEqualForms : Obligations.ComputeHasTwoEqualForms := by
  refine ⟨rfl, fun bs => ?_⟩
  rw [compute_toNat]
  omega

end Sys2Proof.Machine
end

section
/-! PROOFS. The frame reader, phase by phase: START, the moves of the control state, and what each phase writes
(41_frame_reader.md). -/

namespace Sys2Proof.Machine

/-! ### The timer and the handshake -/

/-- Below a limit the timer cannot saturate, so a tick adds one. -/
theorem tinc_tick_of_lt {t l : Half} (h : t < l) : tinc true t = t + 1 := by
  apply BitVec.eq_of_toNat_eq
  rw [tinc_toNat, if_pos rfl]
  bv_omega

theorem countTick_of_no_tick {s n : State} (h : n.tmr = s.tmr) : countTick false s n = n := by
  rw [countTick, tinc, ← h]; rfl

theorem countTick_of_tick {s : State} {l : Half} (h : s.tmr < l) (n : State) :
    countTick true s n = { n with tmr := s.tmr + 1 } := by
  rw [countTick, tinc_tick_of_lt h]

/-- `rx_ready` is 0 outside the three phases that take bytes (10_state.md R36). -/
theorem rxReady_eq_false {s : State} (hsync : s.st ≠ .sync) (hlenwait : s.st ≠ .lenwait) (hbody : s.st ≠ .body)
    (r : Bool) : rxReady r s = false := by
  rw [← Bool.not_eq_true, rxReady_iff]
  simp [hsync, hlenwait, hbody]

theorem rxReady_eq_false_of_free {s : State} (hb : busy s = false) (r : Bool) : rxReady r s = false := by
  have hst := (busy_iff s).not.mp (by simp [hb])
  simp only [not_or] at hst
  obtain ⟨hsync, -, hlenwait, hbody⟩ := hst
  exact rxReady_eq_false hsync hlenwait hbody r

/-! ### The receiver: one equation per case -/

section
variable {c : Inputs} {s : State} (n : State)

theorem receiveSync_of_expired (he : expired s = true) : receiveSync c s n = raiseError .syncTimeout n := by
  simp [receiveSync, he]

theorem receiveSync_of_sentinel (he : expired s = false) (hv : c.rxValid = true) (hd : c.rxData = sentinel) :
    receiveSync c s n = acceptSentinel s n := by
  simp [receiveSync, he, hv, hd]

theorem receiveSync_of_no_sentinel (he : expired s = false) (hd : c.rxValid = true → c.rxData ≠ sentinel) :
    receiveSync c s n = countTick c.tick s n := by
  cases hv : c.rxValid
  · simp [receiveSync, he, hv]
  · simp [receiveSync, he, hd hv]

theorem receiveSettle_of_expired (he : expired s = true) :
    receiveSettle c s n = { n with st := .lenwait, tmr := 0 } := by
  simp [receiveSettle, he]

theorem receiveSettle_of_waiting (he : expired s = false) : receiveSettle c s n = countTick c.tick s n := by
  simp [receiveSettle, he]

theorem receiveLenwait_of_valid_length (he : expired s = false) (hv : c.rxValid = true)
    (hl : lenok s.params s.maxpay c.rxData = true) : receiveLenwait c s n = acceptLength c.rxData s n := by
  simp [receiveLenwait, he, hv, hl]

theorem receiveLenwait_of_invalid_length (he : expired s = false) (hv : c.rxValid = true)
    (hl : lenok s.params s.maxpay c.rxData = false) :
    receiveLenwait c s n = raiseError .invalidLength { n with len := c.rxData } := by
  simp [receiveLenwait, he, hv, hl]

theorem receiveLenwait_of_no_byte (he : expired s = false) (hv : c.rxValid = false) :
    receiveLenwait c s n = countTick c.tick s n := by
  simp [receiveLenwait, he, hv]

theorem receiveBody_of_body_byte (he : expired s = false) (hv : c.rxValid = true)
    (hi : s.idx.toNat < s.len.toNat + 2) : receiveBody c s n = storeBodyByte c s n := by
  simp [receiveBody, he, hv, hi]

theorem receiveBody_of_checksum (he : expired s = false) (hv : c.rxValid = true)
    (hi : s.idx.toNat = s.len.toNat + 2) : receiveBody c s n = storeChecksum c s n := by
  simp [receiveBody, he, hv, hi]

theorem receiveBody_of_no_byte (he : expired s = false) (hv : c.rxValid = false) :
    receiveBody c s n = countTick c.tick s n := by
  simp [receiveBody, he, hv]

end

/-! ### Where each phase leads (R120) -/

section
variable {c : Inputs} {s n : State}

theorem receiveSync_moves (hs : s.st = .sync) (hn : n.st = s.st) :
    if s.tsync ≤ s.tmr then (receiveSync c s n).st = .error ∧ (receiveSync c s n).err = .syncTimeout
    else if c.rxValid = true ∧ c.rxData = 0x40 then (receiveSync c s n).st = .settle
    else (receiveSync c s n).st = .sync := by
  have hcases := receiveSync_cases c s n
  simp only [expired_sync hs, decide_eq_true_eq, decide_eq_false_iff_not] at hcases
  obtain ⟨he, h⟩ | ⟨he, hv, hd, h⟩ | ⟨he, hd, h⟩ := hcases <;> rw [h]
  · rw [if_pos he]
    exact ⟨rfl, rfl⟩
  · rw [if_neg he, if_pos ⟨hv, hd⟩, acceptSentinel_st]
  · rw [if_neg he, if_neg (show ¬(_ ∧ c.rxData = 0x40) from hd), countTick_st, hn, hs]

theorem receiveSettle_moves (hs : s.st = .settle) (hn : n.st = s.st) :
    (receiveSettle c s n).st = if s.params.tSettle ≤ s.tmr then .lenwait else .settle := by
  have hcases := receiveSettle_cases c s n
  simp only [expired_settle hs, decide_eq_true_eq, decide_eq_false_iff_not] at hcases
  obtain ⟨he, h⟩ | ⟨he, h⟩ := hcases <;> rw [h]
  · rw [if_pos he]
  · rw [if_neg he, countTick_st, hn, hs]

theorem receiveLenwait_moves (hs : s.st = .lenwait) (hn : n.st = s.st) :
    if s.params.tLen ≤ s.tmr then (receiveLenwait c s n).st = .error ∧ (receiveLenwait c s n).err = .lengthTimeout
    else if c.rxValid = false then (receiveLenwait c s n).st = .lenwait
    else if lenok s.params s.maxpay c.rxData = true then (receiveLenwait c s n).st = .body
    else (receiveLenwait c s n).st = .error ∧ (receiveLenwait c s n).err = .invalidLength := by
  have hcases := receiveLenwait_cases c s n
  simp only [expired_lenwait hs, decide_eq_true_eq, decide_eq_false_iff_not] at hcases
  obtain ⟨he, h⟩ | ⟨he, hv, hl, h⟩ | ⟨he, hv, hl, h⟩ | ⟨he, hv, h⟩ := hcases <;> rw [h]
  · rw [if_pos he]
    exact ⟨rfl, rfl⟩
  · rw [if_neg he, if_neg (by simp [hv]), if_pos hl, acceptLength_st]
  · rw [if_neg he, if_neg (by simp [hv]), if_neg (by simp [hl])]
    exact ⟨rfl, rfl⟩
  · rw [if_neg he, if_pos hv, countTick_st, hn, hs]

theorem receiveBody_moves (hs : s.st = .body) (hn : n.st = s.st) (hidx : s.idx.toNat ≤ s.len.toNat + 2) :
    if s.params.tBody ≤ s.tmr then (receiveBody c s n).st = .error ∧ (receiveBody c s n).err = .shortRead
    else if c.rxValid = false ∨ s.idx.toNat < s.len.toNat + 2 then (receiveBody c s n).st = .body
    else (receiveBody c s n).st = .done := by
  have hcases := receiveBody_cases c s n
  simp only [expired_body hs, decide_eq_true_eq, decide_eq_false_iff_not] at hcases
  obtain ⟨he, h⟩ | ⟨he, -, hi, h⟩ | ⟨he, hv, hi, h⟩ | ⟨-, -, hi, -⟩ | ⟨he, hv, h⟩ := hcases
  · rw [h, if_pos he]
    exact ⟨rfl, rfl⟩
  · rw [h, if_neg he, if_pos (.inr hi), storeBodyByte_st, hn, hs]
  · rw [h, if_neg he, if_neg (by simp [hv, hi]), storeChecksum_st]
  · omega
  · rw [h, if_neg he, if_pos (.inl hv), countTick_st, hn, hs]

end

/-! ### The command part outside the busy phases -/

theorem exec_start (s : State) : exec .start s = .next (unlessBusy s (startFrame s)) := rfl

theorem commandResult_of_start {s : State} (hb : busy s = false)
    (h : fetchCommand (currentInputs s) = some .start) : commandResult s = startFrame s := by
  simp [commandResult, h, unlessBusy_free hb]

theorem commandResult_of_none_or_nop {s : State}
    (h : fetchCommand (currentInputs s) = none ∨ fetchCommand (currentInputs s) = some .nop) : commandResult s = s := by
  rcases h with h | h <;> simp [commandResult, h]

/-- No command but START writes ST, ERR, LEN, IDX or TMR. -/
theorem commandResult_of_ne_start {s : State} (hb : busy s = false)
    (h : fetchCommand (currentInputs s) ≠ some .start) :
    (commandResult s).st = s.st ∧ (commandResult s).err = s.err ∧ (commandResult s).len = s.len ∧
      (commandResult s).idx = s.idx ∧ (commandResult s).tmr = s.tmr := by
  unfold commandResult
  cases hf : fetchCommand (currentInputs s) with
  | none => simp
  | some i =>
    cases i with
    | start => exact absurd hf h
    | tsync _ | maxpay _ | rclr | radd _ => simp [unlessBusy_free hb]
    | nop | read _ | illegal _ => simp

theorem commandResult_st_free {s : State} (hb : busy s = false) :
    (commandResult s).st = if fetchCommand (currentInputs s) = some .start then .sync else s.st := by
  split
  case isTrue h => rw [commandResult_of_start hb h, startFrame_st]
  case isFalse h => exact (commandResult_of_ne_start hb h).1

/-! ### The step, by the class of the cycle and by the phase -/

section
variable {s : State}

theorem step_reset (hr : (currentInputs s).rst = true) :
    step s = .next (endOfCycle s (resetBlock (commandResult s))) := by
  rw [step_eq, receiveOrReset_of_rst hr]

theorem step_free (hr : (currentInputs s).rst = false) (hb : busy s = false) :
    step s = .next (endOfCycle s (commandResult s)) := by
  rw [step_eq, receiveOrReset_of_free hr hb]

theorem step_busy (hr : (currentInputs s).rst = false) (hb : busy s = true) :
    step s = .next (endOfCycle s (receive (currentInputs s) s (afterCommand s))) := by
  rw [step_eq, receiveOrReset_of_busy hr hb, commandResult_busy hb]

theorem step_sync (hr : (currentInputs s).rst = false) (hs : s.st = .sync) :
    step s = .next (endOfCycle s (receiveSync (currentInputs s) s (afterCommand s))) := by
  rw [step_busy hr ((busy_iff s).mpr (by simp [hs])), receive_sync hs]

theorem step_settle (hr : (currentInputs s).rst = false) (hs : s.st = .settle) :
    step s = .next (endOfCycle s (receiveSettle (currentInputs s) s (afterCommand s))) := by
  rw [step_busy hr ((busy_iff s).mpr (by simp [hs])), receive_settle hs]

theorem step_lenwait (hr : (currentInputs s).rst = false) (hs : s.st = .lenwait) :
    step s = .next (endOfCycle s (receiveLenwait (currentInputs s) s (afterCommand s))) := by
  rw [step_busy hr ((busy_iff s).mpr (by simp [hs])), receive_lenwait hs]

theorem step_body (hr : (currentInputs s).rst = false) (hs : s.st = .body) :
    step s = .next (endOfCycle s (receiveBody (currentInputs s) s (afterCommand s))) := by
  rw [step_busy hr ((busy_iff s).mpr (by simp [hs])), receive_body hs]

/-- A cycle that only counts its tick, below a limit: TMR stays or goes up by one. -/
theorem step_of_countTick {l : Half}
    (hstep : step s = .next (endOfCycle s (countTick (currentInputs s).tick s (afterCommand s)))) (hl : s.tmr < l) :
    ((currentInputs s).tick = false → step s = .next (endOfCycle s (afterCommand s))) ∧
    ((currentInputs s).tick = true → step s = .next (endOfCycle s { afterCommand s with tmr := s.tmr + 1 })) := by
  refine ⟨fun hk => ?_, fun hk => ?_⟩
  · rw [hstep, hk, countTick_of_no_tick (withCommandFlags_tmr _ s)]
  · rw [hstep, hk, countTick_of_tick hl]

/-! ### Below the limit, and what a store leaves in BUF -/

theorem expired_sync_of_lt (hs : s.st = .sync) (ht : s.tmr < s.tsync) : expired s = false := by
  simp [expired_sync hs, BitVec.not_le, ht]

theorem expired_lenwait_of_lt (hs : s.st = .lenwait) (ht : s.tmr < s.params.tLen) : expired s = false := by
  simp [expired_lenwait hs, BitVec.not_le, ht]

theorem expired_body_of_lt (hs : s.st = .body) (ht : s.tmr < s.params.tBody) : expired s = false := by
  simp [expired_body hs, BitVec.not_le, ht]

/-- A byte stored inside BUF reads back at its index, and every other byte is as at the start of the cycle. -/
theorem storedBuffer_afterCommand_read (hbuf : BufferOk s) {i : Nat} (hi : i < s.params.bufCap) (v : Byte) (j : Nat) :
    (storedBuffer (afterCommand s) i v).read j = if j = i then v else bufRead s j := by
  rw [storedBuffer_read (by simpa using hbuf.2) (by simpa using hi), bufRead, withCommandFlags_buf]
  rfl

/-- In TOTAL mode a stored byte does not restart the timer, which counts the tick below its limit. -/
theorem storeBodyByte_tmr_total {c : Inputs} (n : State) (hm : s.params.bodyMode = .total)
    (ht : s.tmr < s.params.tBody) :
    (storeBodyByte c s n).tmr.toNat = if c.tick then s.tmr.toNat + 1 else s.tmr.toNat := by
  have hlt : s.tmr.toNat + 1 ≤ 0xFFFF := by bv_omega
  simp [hm, tinc_toNat, hlt]

end

/-! ### The obligations -/

/-- Settles O20, by the class of the cycle and then by the phase. -/
theorem controlMovesOnlyAlongTheTransitions : Obligations.ControlMovesOnlyAlongTheTransitions := by
  intro s _ hidx
  cases hr : (currentInputs s).rst
  case true => exact ⟨_, step_reset hr, fun _ => rfl, fun h => absurd h (by simp)⟩
  case false =>
    refine ⟨_, step_eq s, fun h => absurd h (by simp), fun _ => ⟨fun hb => ?_, fun hs => ?_, fun hs => ?_, fun hs => ?_,
      fun hs => ?_⟩⟩
    · rw [receiveOrReset_of_free hr hb]
      exact commandResult_st_free hb
    all_goals
      have hb : busy s = true := (busy_iff s).mpr (by simp [hs])
      have hn := withCommandFlags_st (fetchCommand (currentInputs s)) s
      rw [receiveOrReset_of_busy hr hb, commandResult_busy hb]
    · rw [receive_sync hs]
      exact receiveSync_moves hs hn
    · rw [receive_settle hs]
      exact receiveSettle_moves hs hn
    · rw [receive_lenwait hs]
      exact receiveLenwait_moves hs hn
    · rw [receive_body hs]
      exact receiveBody_moves hs hn (hidx hs)

/-- Settles O31: the cycle takes the sentinel, at an index that lies inside BUF for every legal BUF_CAP. -/
theorem sentinelIsAccepted : Obligations.SentinelIsAccepted := by
  intro s hbuf hr hs ht hv hd
  have hcap : 0 < s.params.bufCap := by have := hbuf.1.1; omega
  refine ⟨storedBuffer (afterCommand s) 0 sentinel, ?_, storedBuffer_afterCommand_read hbuf hcap sentinel,
    fun hsync => ?_, (rxReady_iff_below_limit false s).mpr ⟨rfl, .inl ⟨hs, ht⟩⟩⟩
  · rw [step_sync hr hs, receiveSync_of_sentinel _ (expired_sync_of_lt hs ht) hv hd, acceptSentinel, addMod256_eq_add]
    rfl
  · rw [(hsync.1 hs).2]
    rfl

/-- Settles O33: the three limits are the length check, and 0xC0 is the negation of the sentinel. -/
theorem validLengthIsAccepted : Obligations.ValidLengthIsAccepted := by
  intro s hbuf hr hs ht hv hpos hfits hpay
  have hlen : lenok s.params s.maxpay (currentInputs s).rxData = true :=
    (lenok_iff _ _ _).mpr ⟨hpos, by omega, by omega⟩
  refine ⟨storedBuffer (afterCommand s) 1 (currentInputs s).rxData, ?_,
    storedBuffer_afterCommand_read hbuf (by omega) _,
    (rxReady_iff_below_limit false s).mpr ⟨rfl, .inr (.inl ⟨hs, ht⟩)⟩, fun hsent => ?_, fun hC0 => ?_⟩
  · rw [step_lenwait hr hs, receiveLenwait_of_valid_length _ (expired_lenwait_of_lt hs ht) hv hlen, acceptLength,
      addMod256_eq_add]
    rfl
  · rw [(hsent.2 (.inr hs)).2]
    constructor <;> intro h <;> bv_omega
  · have hnat : (currentInputs s).rxData.toNat = 192 := by rw [hC0]; rfl
    omega

/-- Settles O35: the byte is stored inside BUF, because the whole frame fits, and TMR is what BODY_MODE makes of it. -/
theorem bodyByteIsStoredAndAdded : Obligations.BodyByteIsStoredAndAdded := by
  intro s hbuf hr hs ht hv hidx hfits
  refine ⟨storedBuffer (afterCommand s) s.idx.toNat (currentInputs s).rxData,
    (storeBodyByte (currentInputs s) s (afterCommand s)).tmr, ?_, storedBuffer_afterCommand_read hbuf (by omega) _,
    fun hm => by simp [hm], fun hm => storeBodyByte_tmr_total _ hm ht,
    (rxReady_iff_below_limit false s).mpr ⟨rfl, .inr (.inr ⟨hs, ht⟩)⟩⟩
  rw [step_body hr hs, receiveBody_of_body_byte _ (expired_body_of_lt hs ht) hv hidx, storeBodyByte, addMod256_eq_add]
  rfl

/-- Settles O36: the last byte is stored inside BUF, because the whole frame fits, and IDX has room for LEN + 3. -/
theorem checksumByteCompletesTheFrame : Obligations.ChecksumByteCompletesTheFrame := by
  intro s hbuf hr hs ht hv hidx hfits
  refine ⟨storedBuffer (afterCommand s) s.idx.toNat (currentInputs s).rxData, ?_, by bv_omega,
    storedBuffer_afterCommand_read hbuf (by omega) _,
    (rxReady_iff_below_limit false s).mpr ⟨rfl, .inr (.inr ⟨hs, ht⟩)⟩⟩
  rw [step_body hr hs, receiveBody_of_checksum _ (expired_body_of_lt hs ht) hv hidx]
  rfl

/-- Settles O37: each of the four cycles only counts its tick, below the limit of a phase that is ready for a byte. -/
theorem waitingPhasesOnlyCountTheTick : Obligations.WaitingPhasesOnlyCountTheTick := by
  intro s hr hwait
  obtain ⟨l, ht, hready, hstep⟩ : ∃ l, s.tmr < l ∧ rxReady false s = true ∧
      step s = .next (endOfCycle s (countTick (currentInputs s).tick s (afterCommand s))) := by
    rw [rxReady_iff_below_limit]
    obtain ⟨hs, ht, -, hd⟩ | ⟨hs, ht, hv⟩ | ⟨hs, ht, hv⟩ | ⟨hs, ht, hv⟩ := hwait
    · refine ⟨_, ht, ⟨rfl, .inl ⟨hs, ht⟩⟩, ?_⟩
      rw [step_sync hr hs, receiveSync_of_no_sentinel _ (expired_sync_of_lt hs ht) (fun _ => hd)]
    · refine ⟨_, ht, ⟨rfl, .inl ⟨hs, ht⟩⟩, ?_⟩
      rw [step_sync hr hs, receiveSync_of_no_sentinel _ (expired_sync_of_lt hs ht) (by simp [hv])]
    · refine ⟨_, ht, ⟨rfl, .inr (.inl ⟨hs, ht⟩)⟩, ?_⟩
      rw [step_lenwait hr hs, receiveLenwait_of_no_byte _ (expired_lenwait_of_lt hs ht) hv]
    · refine ⟨_, ht, ⟨rfl, .inr (.inr ⟨hs, ht⟩)⟩, ?_⟩
      rw [step_body hr hs, receiveBody_of_no_byte _ (expired_body_of_lt hs ht) hv]
  obtain ⟨hquiet, htick⟩ := step_of_countTick hstep ht
  exact ⟨hquiet, htick, hready⟩

/-- Settles O38: outside the busy phases a cycle is its command part, which never writes BUF. -/
theorem finishedAndIdleStatesHold : Obligations.FinishedAndIdleStatesHold := by
  intro s hst hr
  have hb : busy s = false := by rcases hst with hs | hs | hs <;> simp [busy, hs, St.isBusy]
  refine ⟨rxReady_eq_false_of_free hb false, _, step_free hr hb, commandResult_buf s, fun h => ?_, fun h => ?_,
    commandResult_of_ne_start hb⟩
  · rw [commandResult_of_none_or_nop h]
  · rw [commandResult_of_start hb h, endOfCycle_st, startFrame_st]

/-- Settles O8: the effect is `startFrame` by `unlessBusy`, and a limit of 0 is reached at once. -/
theorem startBeginsAFrame : Obligations.StartBeginsAFrame := by
  refine ⟨by decide, fun s hb => ⟨?_, rfl, rxReady_eq_false_of_free hb⟩, fun s hb => ?_, fun s hs htsync hr => ?_⟩
  · rw [exec_start, unlessBusy_free hb]
    rfl
  · rw [exec_start, unlessBusy_busy hb]
  · have he : expired s = true := by simp [expired_sync hs, htsync, BitVec.le_def]
    refine ⟨_, step_sync hr hs, ?_⟩
    rw [receiveSync_of_expired _ he]
    exact ⟨rfl, rfl⟩

/-- Settles O32, by whether SETTLE has expired. -/
theorem settleWaitsAndThenLooksForTheLength : Obligations.SettleWaitsAndThenLooksForTheLength := by
  intro s hr hs
  have hwaits (ht : s.tmr < s.params.tSettle) :=
    have he : expired s = false := by simp [expired_settle hs, BitVec.not_le, ht]
    step_of_countTick (receiveSettle_of_waiting (afterCommand s) he ▸ step_settle hr hs) ht
  refine ⟨rxReady_eq_false (by simp [hs]) (by simp [hs]) (by simp [hs]) false, fun ht => ?_, fun ht => (hwaits ht).1,
    fun ht => (hwaits ht).2⟩
  rw [step_settle hr hs, receiveSettle_of_expired _ (by simp [expired_settle hs, ht])]

/-- Settles O34: the clauses are those of `lenok_iff`, and LENWAIT moves by `lenok` alone once a byte is taken. -/
theorem lengthCheckHasThreeClauses : Obligations.LengthCheckHasThreeClauses := by
  refine ⟨fun p m l => ⟨?_, by omega, by omega, by omega⟩, fun s hr hs ht hv => ⟨_, step_lenwait hr hs, ?_⟩⟩
  · rw [lenok_iff]
    omega
  · have he := expired_lenwait_of_lt hs ht
    cases hl : lenok s.params s.maxpay (currentInputs s).rxData
    · simp [receiveLenwait_of_invalid_length _ he hv hl]
    · simp [receiveLenwait_of_valid_length _ he hv hl]

end Sys2Proof.Machine
end

section
/-! PROOFS. NOP, the configuration commands, commands while busy, and the read port's place in a cycle
(42_config_and_access.md R161 to R166). -/

namespace Sys2Proof.Machine

/-! ### The words of NOP, TSYNC and MAXPAY -/

theorem decodeWord_zero : decodeWord 0#32 = .nop := by decide

/-- NOP has one word (R73): the word of format Z with OP = 0. -/
theorem eq_zero_of_fields {w : Word} (hop : opField w = 0x0) (hrsv : rsvField w = 0) (himm : immField w = 0) :
    w = 0 :=
  eq_of_fields_eq (hop.trans (by decide)) (hrsv.trans (by decide)) (himm.trans (by decide))

/-- An operand written into the low bits that a command's word leaves 0 adds its number. -/
theorem or_operand_toNat {n : Nat} (hn : n ≤ 32) {p : Word} (hp : 2 ^ n ∣ p.toNat) (x : BitVec n) :
    (p ||| x.zeroExtend 32).toNat = p.toNat + x.toNat := by
  obtain ⟨k, hk⟩ := hp
  have hx : (x.zeroExtend 32).toNat = x.toNat := BitVec.toNat_setWidth_of_le hn
  rw [BitVec.toNat_or, hx, hk, Nat.two_pow_add_eq_or_of_lt x.isLt]

/-- The TSYNC word decodes to TSYNC of the operand in its low half. -/
theorem decodeWord_tsyncWord (t : Half) : decodeWord (0x20000000#32 ||| t.zeroExtend 32) = .tsync t := by
  have hw := or_operand_toNat (by decide) (p := 0x20000000#32) (by decide) t
  generalize 0x20000000#32 ||| t.zeroExtend 32 = w at hw
  have hop : opField w = 0x2 := BitVec.eq_of_toNat_eq ((opField_toNat w).trans (by bv_omega))
  have hrsv : rsvField w = 0 := BitVec.eq_of_toNat_eq ((rsvField_toNat w).trans (by bv_omega))
  have himm : immField w = t := BitVec.eq_of_toNat_eq ((immField_toNat w).trans (by bv_omega))
  simp [decodeWord, classify, hop, hrsv, himm]

/-- The MAXPAY word decodes to MAXPAY of the operand in its low byte. -/
theorem decodeWord_maxpayWord (m : Byte) : decodeWord (0x30000000#32 ||| m.zeroExtend 32) = .maxpay m := by
  have hw := or_operand_toNat (by decide) (p := 0x30000000#32) (by decide) m
  generalize 0x30000000#32 ||| m.zeroExtend 32 = w at hw
  have hop : opField w = 0x3 := BitVec.eq_of_toNat_eq ((opField_toNat w).trans (by bv_omega))
  have hrsv : rsvField w = 0 := BitVec.eq_of_toNat_eq ((rsvField_toNat w).trans (by bv_omega))
  have hhigh : immHigh w = 0 := BitVec.eq_of_toNat_eq ((immHigh_toNat w).trans (by bv_omega))
  have hlow : immLow w = m := BitVec.eq_of_toNat_eq ((immLow_toNat w).trans (by bv_omega))
  simp [decodeWord, classify, hop, hrsv, hhigh, hlow]

/-! ### The effects -/

theorem exec_tsync (t : Half) (s : State) : exec (.tsync t) s = .next (unlessBusy s { s with tsync := t }) := rfl

theorem exec_maxpay (m : Byte) (s : State) : exec (.maxpay m) s = .next (unlessBusy s { s with maxpay := m }) := rfl

/-- The word 0 is NOP's, so a cycle that shows it on the command port has no command or NOP. -/
theorem commandResult_of_zeroWord {s : State} (hw : (currentInputs s).cmdWord = 0) : commandResult s = s := by
  apply commandResult_of_none_or_nop
  cases hr : (currentInputs s).rst <;> cases hv : (currentInputs s).cmdValid <;>
    simp [fetchCommand, decode, hr, hv, hw, decodeWord_zero]

/-! ### The command part does not see the rest of the listed inputs -/

theorem unlessBusy_setInputs (s t : State) (l : List Inputs) :
    unlessBusy { s with inputs := l } { t with inputs := l } = { unlessBusy s t with inputs := l } := by
  have hsame : busy { s with inputs := l } = busy s := rfl
  cases hb : busy s
  · rw [unlessBusy_free hb, unlessBusy_free (hsame.trans hb)]
  · rw [unlessBusy_busy hb, unlessBusy_busy (hsame.trans hb)]

/-- Of the inputs, the command part sees only the command they present. -/
theorem commandResult_setInputs {s : State} {l : List Inputs}
    (h : fetchCommand (currentInputs { s with inputs := l }) = fetchCommand (currentInputs s)) :
    commandResult { s with inputs := l } = { commandResult s with inputs := l } := by
  unfold commandResult
  rw [h]
  cases fetchCommand (currentInputs s) with
  | none => rfl
  | some i =>
    cases i with
    | nop | read _ | illegal _ => rfl
    | start => exact unlessBusy_setInputs s (startFrame s) l
    | tsync t => exact unlessBusy_setInputs s { s with tsync := t } l
    | maxpay m => exact unlessBusy_setInputs s { s with maxpay := m } l
    | rclr => exact unlessBusy_setInputs s { s with acc := 0 } l
    | radd b => exact unlessBusy_setInputs s { s with acc := addMod256 s.acc b } l

/-! ### The obligations -/

/-- Settles O27: neither the command part nor the receiver sees `rd_addr`, so the address reaches only the record of
`rd_data`. -/
theorem readingHasNoSideEffect : Obligations.ReadingHasNoSideEffect := by
  intro s c a
  have hcommand : commandResult (withInputs s { c with rdAddr := a }) =
      { commandResult (withInputs s c) with inputs := { c with rdAddr := a } :: s.inputs.tail } :=
    commandResult_setInputs (s := withInputs s c) rfl
  refine ⟨_, step_eq _, rfl, ?_⟩
  rw [step_eq, hcommand, receiveOrReset_setInputs]
  rfl

/-- Settles O7: NOP's word is the only one of its OP without a field of format Z set, and the command part is the same
with it as without a command. -/
theorem nopWritesNothing : Obligations.NopWritesNothing := by
  refine ⟨fun _ => rfl, fun w hop => ?_, fun s c => ?_⟩
  · split
    case isTrue hw => exact hw ▸ decodeWord_zero
    case isFalse hw =>
      rw [decodeWord_illegal_iff]
      by_cases hrsv : rsvField w = 0
      · exact .inr (.inr (.inl ⟨.inl hop, fun himm => hw (eq_zero_of_fields hop hrsv himm)⟩))
      · exact .inr (.inl hrsv)
  · exact (step_of_commandResult (commandResult_of_zeroWord rfl)).trans (step_of_not_valid s c c.cmdWord).symm

/-- Settles O15: each of the five commands has its effect by `unlessBusy` (R164). -/
theorem commandsWhileBusyOnlySetIgn : Obligations.CommandsWhileBusyOnlySetIgn := by
  intro s hb
  refine ⟨?_, fun t => ?_, fun m => ?_, ?_, fun b => ?_⟩
  · rw [exec_start, unlessBusy_busy hb]
  · rw [exec_tsync, unlessBusy_busy hb]
  · rw [exec_maxpay, unlessBusy_busy hb]
  · rw [exec_rclr, unlessBusy_busy hb]
  · rw [exec_radd, unlessBusy_busy hb]

/-- Settles O9: the effect is R162's, by `unlessBusy`, and SYNC raises its error exactly at the limit TSYNC sets. -/
theorem tsyncSetsTheSyncTimeout : Obligations.TsyncSetsTheSyncTimeout := by
  refine ⟨decodeWord_tsyncWord, fun s t hb => ?_, fun s t hb => ?_, fun s hs hr => ⟨_, step_sync hr hs, ?_⟩⟩
  · rw [exec_tsync, unlessBusy_free hb]
    exact ⟨rfl, rfl⟩
  · rw [exec_tsync, unlessBusy_busy hb]
  · have hmoves := receiveSync_moves (c := currentInputs s) (n := afterCommand s) hs (withCommandFlags_st _ s)
    rw [endOfCycle_st, endOfCycle_err, ← BitVec.le_def]
    by_cases ht : s.tsync ≤ s.tmr
    · rw [if_pos ht] at hmoves
      obtain ⟨hst, herr⟩ := hmoves
      exact ⟨iff_of_true hst ht, fun _ => herr⟩
    · have hst : (receiveSync (currentInputs s) s (afterCommand s)).st ≠ .error := by
        rw [if_neg ht] at hmoves
        split at hmoves <;> simp [hmoves]
      exact ⟨iff_of_false hst ht, fun h => absurd h hst⟩

/-- Settles O10: the effect is R163's, by `unlessBusy`, and the corners of the capacity are those of `lenok_iff`. -/
theorem maxpaySetsTheCapacity : Obligations.MaxpaySetsTheCapacity := by
  refine ⟨decodeWord_maxpayWord, fun w hop hhigh => ?_, fun s m hb => ?_, fun s m hb => ?_, fun p l hwf => ?_,
    fun p m l hwf hm => ?_⟩
  · exact (decodeWord_illegal_iff w).mpr (.inr (.inr (.inr ⟨.inl hop, hhigh⟩)))
  · rw [exec_maxpay, unlessBusy_free hb]
  · rw [exec_maxpay, unlessBusy_busy hb]
  · obtain ⟨hmin, -⟩ := hwf
    have hzero : (0 : Byte).toNat = 0 := rfl
    have hone : (1 : Byte).toNat = 1 := rfl
    rw [lenok_iff, ← BitVec.toNat_inj, hzero, hone]
    omega
  · obtain ⟨-, hmax⟩ := hwf
    rw [lenok_iff]
    omega

end Sys2Proof.Machine
end

section
/-! PROOFS. What raising an error writes, and what the byte offered in that cycle becomes (60_exceptions.md R201). -/

namespace Sys2Proof.Machine

/-! ### A cycle in which a phase has expired -/

section
variable {s : State}

theorem expired_sync_of_le (hs : s.st = .sync) (ht : s.tsync ≤ s.tmr) : expired s = true := by
  simp [expired_sync hs, ht]

theorem expired_lenwait_of_le (hs : s.st = .lenwait) (ht : s.params.tLen ≤ s.tmr) : expired s = true := by
  simp [expired_lenwait hs, ht]

theorem expired_body_of_le (hs : s.st = .body) (ht : s.params.tBody ≤ s.tmr) : expired s = true := by
  simp [expired_body hs, ht]

/-- An expired phase takes no byte: the timeout comes before the byte that is offered in its cycle. -/
theorem rxReady_eq_false_of_expired (he : expired s = true) (r : Bool) : rxReady r s = false := by
  rw [← Bool.not_eq_true, rxReady_iff]
  simp [he]

theorem receiveLenwait_of_expired {c : Inputs} (n : State) (he : expired s = true) :
    receiveLenwait c s n = raiseError .lengthTimeout n := by
  simp [receiveLenwait, he]

theorem receiveBody_of_expired {c : Inputs} (n : State) (he : expired s = true) :
    receiveBody c s n = raiseError .shortRead n := by
  simp [receiveBody, he]

end

/-! ### The step that raises each error -/

section
variable {s : State}

theorem step_sync_of_expired (hr : (currentInputs s).rst = false) (hs : s.st = .sync) (he : expired s = true) :
    step s = .next (endOfCycle s (raiseError .syncTimeout (afterCommand s))) := by
  rw [step_sync hr hs, receiveSync_of_expired _ he]

theorem step_lenwait_of_expired (hr : (currentInputs s).rst = false) (hs : s.st = .lenwait) (he : expired s = true) :
    step s = .next (endOfCycle s (raiseError .lengthTimeout (afterCommand s))) := by
  rw [step_lenwait hr hs, receiveLenwait_of_expired _ he]

theorem step_body_of_expired (hr : (currentInputs s).rst = false) (hs : s.st = .body) (he : expired s = true) :
    step s = .next (endOfCycle s (raiseError .shortRead (afterCommand s))) := by
  rw [step_body hr hs, receiveBody_of_expired _ he]

theorem step_lenwait_of_invalid_length (hr : (currentInputs s).rst = false) (hs : s.st = .lenwait)
    (he : expired s = false) (hv : (currentInputs s).rxValid = true)
    (hl : lenok s.params s.maxpay (currentInputs s).rxData = false) :
    step s = .next (endOfCycle s
      (raiseError .invalidLength { afterCommand s with len := (currentInputs s).rxData })) := by
  rw [step_lenwait hr hs, receiveLenwait_of_invalid_length _ he hv hl]

end

/-- In ERROR the recorded output `fin` is 1, whatever the cycle does. -/
theorem step_fin_of_error {s : State} (hs : s.st = .error) : ∃ t, step s = .next t ∧ t.out.fin = true :=
  ⟨_, step_eq s, (finished_iff s).mpr (.inr hs)⟩

/-! ### The obligations -/

/-- Settles O30: each raise is its phase's step, a timeout shuts `rx_ready` with TMR at the limit that `InvTimer` keeps it
from passing, and an invalid length is taken below the limit. -/
theorem raisingAnErrorIsPrecise : Obligations.RaisingAnErrorIsPrecise := by
  refine ⟨by decide, fun _ => step_fin_of_error, fun s hr => ⟨fun hs ht => ?_, fun hs ht => ?_, fun hs ht => ?_,
    fun hs ht hv hl => ⟨?_, ?_⟩⟩⟩
  · have he := expired_sync_of_le hs ht
    exact ⟨step_sync_of_expired hr hs he, rxReady_eq_false_of_expired he false,
      fun ⟨hsync, _, _, _⟩ => BitVec.le_antisymm (hsync hs) ht⟩
  · have he := expired_lenwait_of_le hs ht
    exact ⟨step_lenwait_of_expired hr hs he, rxReady_eq_false_of_expired he false,
      fun ⟨_, _, hlenwait, _⟩ => BitVec.le_antisymm (hlenwait hs) ht⟩
  · have he := expired_body_of_le hs ht
    exact ⟨step_body_of_expired hr hs he, rxReady_eq_false_of_expired he false,
      fun ⟨_, _, _, hbody⟩ => BitVec.le_antisymm (hbody hs) ht⟩
  · exact step_lenwait_of_invalid_length hr hs (expired_lenwait_of_lt hs ht) hv hl
  · exact (rxReady_iff_below_limit false s).mpr ⟨rfl, .inr (.inl ⟨hs, ht⟩)⟩

end Sys2Proof.Machine
end

section
/-! PROOFS. Reset cycles (70_reset_and_hazards.md R230). -/

namespace Sys2Proof.Machine

/-! ### What a reset cycle ignores, and what it shows -/

theorem fetchCommand_of_rst {c : Inputs} (hr : c.rst = true) : fetchCommand c = none :=
  if_pos hr

theorem commandResult_of_rst {s : State} (hr : (currentInputs s).rst = true) : commandResult s = s := by
  simp [commandResult, fetchCommand_of_rst hr]

theorem rxReady_of_rst {c : Inputs} (hr : c.rst = true) (s : State) : rxReady c.rst s = false :=
  Bool.eq_false_iff.mpr fun h => absurd ((rxReady_iff c.rst s).mp h).1 (by simp [hr])

/-- With the word on the command port ignored, a reset cycle leaves `reset(s)` of the state it began in. -/
theorem step_eq_resetBlock {s : State} (hr : (currentInputs s).rst = true) :
    step s = .next (endOfCycle s (resetBlock s)) := by
  rw [step_reset hr, commandResult_of_rst hr]

/-! ### A reset state is fixed by reset -/

@[simp] theorem resetBlock_resetBlock (s : State) : resetBlock (resetBlock s) = resetBlock s := rfl

/-- The record of a cycle is no field that reset writes. -/
theorem resetBlock_endOfCycle (s n : State) : resetBlock (endOfCycle s n) = endOfCycle s (resetBlock n) := rfl

/-- Once a cycle has left `reset(n)`, a reset cycle changes nothing but the record of the cycle. -/
theorem step_of_resetBlock {s n : State} (hr : (currentInputs (endOfCycle s (resetBlock n))).rst = true) :
    step (endOfCycle s (resetBlock n)) =
      .next (endOfCycle (endOfCycle s (resetBlock n)) (endOfCycle s (resetBlock n))) := by
  rw [step_eq_resetBlock hr, resetBlock_endOfCycle, resetBlock_resetBlock]

/-! ### The obligation -/

/-- Settles O19: the cycle takes no command and ends in `reset(s)`, which a second reset cycle keeps. -/
theorem resetCycleLoadsTheResetValues : Obligations.ResetCycleLoadsTheResetValues := fun s hr =>
  ⟨endOfCycle s (resetBlock s), step_eq_resetBlock hr, rfl, rxReady_of_rst hr s, rfl, step_of_resetBlock⟩

end Sys2Proof.Machine
end

section
/-! PROOFS. What one cycle of a running frame can do, with its guards, said once (41_frame_reader.md R125 to R138). -/

namespace Sys2Proof.Machine

/-! ### The handshake, by phase -/

section
variable {c : Inputs} {s : State}

theorem fire_eq_rxValid (hr : c.rst = false) (hst : s.st = .sync ∨ s.st = .lenwait ∨ s.st = .body)
    (he : expired s = false) : fire c s = c.rxValid := by
  simp [fire, (rxReady_iff c.rst s).mpr ⟨hr, hst, he⟩]

theorem fire_eq_false_of_expired (he : expired s = true) : fire c s = false := by
  simp [fire, rxReady_eq_false_of_expired he]

theorem fire_eq_false_of_settle (hs : s.st = .settle) : fire c s = false := by
  simp [fire, rxReady_eq_false (s := s) (by simp [hs]) (by simp [hs]) (by simp [hs])]

theorem fire_eq_false_of_free (hb : busy s = false) : fire c s = false := by
  simp [fire, rxReady_eq_false_of_free hb]

theorem busy_of_fire (hf : fire c s = true) : busy s = true := by
  by_contra hb
  exact absurd hf (by simp [fire_eq_false_of_free (Bool.eq_false_iff.mpr hb)])

theorem rst_of_fire (hf : fire c s = true) : c.rst = false := by
  simp only [fire, Bool.and_eq_true] at hf
  exact ((rxReady_iff c.rst s).mp hf.2).1

end

/-! ### The cycles of a frame -/

/-- One cycle of a running frame outside reset: the state before it, the state after its receiver part, and the guards
of the one rule that acts. -/
inductive FrameCycle (s : State) : State → Prop
  /-- R125 -/
  | syncTimeout (hs : s.st = .sync) (ht : s.tsync ≤ s.tmr) (hf : fire (currentInputs s) s = false) :
      FrameCycle s (raiseError .syncTimeout (afterCommand s))
  /-- R126 -/
  | sentinel (hs : s.st = .sync) (ht : s.tmr < s.tsync) (hf : fire (currentInputs s) s = true)
      (hd : (currentInputs s).rxData = 0x40) : FrameCycle s (acceptSentinel s (afterCommand s))
  /-- R127, R128 -/
  | syncWait (hs : s.st = .sync) (ht : s.tmr < s.tsync)
      (hd : fire (currentInputs s) s = true → (currentInputs s).rxData ≠ 0x40) :
      FrameCycle s (countTick (currentInputs s).tick s (afterCommand s))
  /-- R129, at the limit -/
  | settleEnd (hs : s.st = .settle) (ht : s.params.tSettle ≤ s.tmr) (hf : fire (currentInputs s) s = false) :
      FrameCycle s { afterCommand s with st := .lenwait, tmr := 0 }
  /-- R129, before the limit -/
  | settleWait (hs : s.st = .settle) (ht : s.tmr < s.params.tSettle) (hf : fire (currentInputs s) s = false) :
      FrameCycle s (countTick (currentInputs s).tick s (afterCommand s))
  /-- R130 -/
  | lengthTimeout (hs : s.st = .lenwait) (ht : s.params.tLen ≤ s.tmr) (hf : fire (currentInputs s) s = false) :
      FrameCycle s (raiseError .lengthTimeout (afterCommand s))
  /-- R132 -/
  | validLength (hs : s.st = .lenwait) (ht : s.tmr < s.params.tLen) (hf : fire (currentInputs s) s = true)
      (hl : lenok s.params s.maxpay (currentInputs s).rxData = true) :
      FrameCycle s (acceptLength (currentInputs s).rxData s (afterCommand s))
  /-- R133 -/
  | invalidLength (hs : s.st = .lenwait) (ht : s.tmr < s.params.tLen) (hf : fire (currentInputs s) s = true)
      (hl : lenok s.params s.maxpay (currentInputs s).rxData = false) :
      FrameCycle s (raiseError .invalidLength { afterCommand s with len := (currentInputs s).rxData })
  /-- R134 -/
  | lengthWait (hs : s.st = .lenwait) (ht : s.tmr < s.params.tLen) (hf : fire (currentInputs s) s = false) :
      FrameCycle s (countTick (currentInputs s).tick s (afterCommand s))
  /-- R135 -/
  | shortRead (hs : s.st = .body) (ht : s.params.tBody ≤ s.tmr) (hf : fire (currentInputs s) s = false) :
      FrameCycle s (raiseError .shortRead (afterCommand s))
  /-- R136 -/
  | bodyByte (hs : s.st = .body) (ht : s.tmr < s.params.tBody) (hf : fire (currentInputs s) s = true)
      (hi : s.idx.toNat < s.len.toNat + 2) : FrameCycle s (storeBodyByte (currentInputs s) s (afterCommand s))
  /-- R137 -/
  | checksum (hs : s.st = .body) (ht : s.tmr < s.params.tBody) (hf : fire (currentInputs s) s = true)
      (hi : s.idx.toNat = s.len.toNat + 2) : FrameCycle s (storeChecksum (currentInputs s) s (afterCommand s))
  /-- Log 8: IDX past the frame, where no run from reset goes. -/
  | pastFrame (hs : s.st = .body) (ht : s.tmr < s.params.tBody) (hf : fire (currentInputs s) s = true)
      (hi : s.len.toNat + 2 < s.idx.toNat) : FrameCycle s (countTick (currentInputs s).tick s (afterCommand s))
  /-- R138 -/
  | bodyWait (hs : s.st = .body) (ht : s.tmr < s.params.tBody) (hf : fire (currentInputs s) s = false) :
      FrameCycle s (countTick (currentInputs s).tick s (afterCommand s))

section
variable {s : State}

theorem frameCycle_sync (hr : (currentInputs s).rst = false) (hs : s.st = .sync) :
    FrameCycle s (receiveSync (currentInputs s) s (afterCommand s)) := by
  obtain ⟨he, h⟩ | ⟨he, hv, hd, h⟩ | ⟨he, hd, h⟩ := receiveSync_cases (currentInputs s) s (afterCommand s) <;> rw [h]
  · exact .syncTimeout hs (by simpa [expired_sync hs] using he) (fire_eq_false_of_expired he)
  all_goals
    have hf := fire_eq_rxValid hr (.inl hs) he
    have ht : s.tmr < s.tsync := by simpa [expired_sync hs] using he
  · exact .sentinel hs ht (hf.trans hv) hd
  · exact .syncWait hs ht fun h40 hd' => hd ⟨hf ▸ h40, hd'⟩

theorem frameCycle_settle (hs : s.st = .settle) :
    FrameCycle s (receiveSettle (currentInputs s) s (afterCommand s)) := by
  obtain ⟨he, h⟩ | ⟨he, h⟩ := receiveSettle_cases (currentInputs s) s (afterCommand s) <;> rw [h]
  · exact .settleEnd hs (by simpa [expired_settle hs] using he) (fire_eq_false_of_settle hs)
  · exact .settleWait hs (by simpa [expired_settle hs] using he) (fire_eq_false_of_settle hs)

theorem frameCycle_lenwait (hr : (currentInputs s).rst = false) (hs : s.st = .lenwait) :
    FrameCycle s (receiveLenwait (currentInputs s) s (afterCommand s)) := by
  obtain ⟨he, h⟩ | ⟨he, hv, hl, h⟩ | ⟨he, hv, hl, h⟩ | ⟨he, hv, h⟩ :=
    receiveLenwait_cases (currentInputs s) s (afterCommand s) <;> rw [h]
  · exact .lengthTimeout hs (by simpa [expired_lenwait hs] using he) (fire_eq_false_of_expired he)
  all_goals
    have hf := fire_eq_rxValid hr (.inr (.inl hs)) he
    have ht : s.tmr < s.params.tLen := by simpa [expired_lenwait hs] using he
  · exact .validLength hs ht (hf.trans hv) hl
  · exact .invalidLength hs ht (hf.trans hv) hl
  · exact .lengthWait hs ht (hf.trans hv)

theorem frameCycle_body (hr : (currentInputs s).rst = false) (hs : s.st = .body) :
    FrameCycle s (receiveBody (currentInputs s) s (afterCommand s)) := by
  obtain ⟨he, h⟩ | ⟨he, hv, hi, h⟩ | ⟨he, hv, hi, h⟩ | ⟨he, hv, hi, h⟩ | ⟨he, hv, h⟩ :=
    receiveBody_cases (currentInputs s) s (afterCommand s) <;> rw [h]
  · exact .shortRead hs (by simpa [expired_body hs] using he) (fire_eq_false_of_expired he)
  all_goals
    have hf := fire_eq_rxValid hr (.inr (.inr hs)) he
    have ht : s.tmr < s.params.tBody := by simpa [expired_body hs] using he
  · exact .bodyByte hs ht (hf.trans hv) hi
  · exact .checksum hs ht (hf.trans hv) hi
  · exact .pastFrame hs ht (hf.trans hv) hi
  · exact .bodyWait hs ht (hf.trans hv)

/-- Every cycle of a busy state outside reset is one of the frame's cycles. -/
theorem exists_frameCycle (hr : (currentInputs s).rst = false) (hb : busy s = true) :
    ∃ n, step s = .next (endOfCycle s n) ∧ FrameCycle s n := by
  refine ⟨_, step_busy hr hb, ?_⟩
  obtain hs | hs | hs | hs := (busy_iff s).mp hb
  · exact receive_sync hs _ (afterCommand s) ▸ frameCycle_sync hr hs
  · exact receive_settle hs _ (afterCommand s) ▸ frameCycle_settle hs
  · exact receive_lenwait hs _ (afterCommand s) ▸ frameCycle_lenwait hr hs
  · exact receive_body hs _ (afterCommand s) ▸ frameCycle_body hr hs

/-- No cycle of a frame writes TSYNC, MAXPAY or the parameters. -/
theorem FrameCycle.keeps_settings {n : State} (h : FrameCycle s n) :
    n.tsync = s.tsync ∧ n.maxpay = s.maxpay ∧ n.params = s.params := by
  cases h <;> simp

/-- A cycle that takes no byte leaves what the bytes build: LEN, IDX, ACC and BUF. -/
theorem FrameCycle.keeps_bytes_of_no_fire {n : State} (h : FrameCycle s n) (hf : fire (currentInputs s) s = false) :
    n.len = s.len ∧ n.idx = s.idx ∧ n.acc = s.acc ∧ n.buf = s.buf := by
  cases h <;> simp_all

end
end Sys2Proof.Machine
end

section
/-! PROOFS. The invariants of 10_state.md R39: what they say in each control state, and that every cycle keeps them. -/

namespace Sys2Proof.Machine

/-! ### The items of the invariants, for `simp` -/

section
variable (s : State)

@[simp] theorem params_wf_iff (p : Config.Params) : p.wf ↔ 4 ≤ p.bufCap ∧ p.bufCap ≤ 256 := Iff.rfl

@[simp] theorem bufferOk_iff : BufferOk s ↔ s.params.wf ∧ s.buf.wf s.params.bufCap = true := Iff.rfl

@[simp] theorem invCodes_iff :
    InvCodes s ↔ s.st ≠ .unused7 ∧ s.err ≠ .unused5 ∧ s.err ≠ .unused6 ∧ s.err ≠ .unused7 := Iff.rfl

@[simp] theorem invError_iff : InvError s ↔ (s.err ≠ .none ↔ s.st = .error) := Iff.rfl

@[simp] theorem invSentinel_iff : InvSentinel s ↔
    ((s.st = .settle ∨ s.st = .lenwait ∨ s.st = .body ∨ s.st = .done) → bufRead s 0 = 0x40) ∧
    ((s.st = .settle ∨ s.st = .lenwait) → s.idx = 1 ∧ s.acc = 0x40) := Iff.rfl

@[simp] theorem invLength_iff : InvLength s ↔
    ((s.st = .body ∨ s.st = .done) →
      1 ≤ s.len.toNat ∧ s.len.toNat + 3 ≤ s.params.bufCap ∧ bufRead s 1 = s.len) ∧
    (s.st = .body → s.len.toNat ≤ s.maxpay.toNat + 1) := Iff.rfl

@[simp] theorem invIndex_iff : InvIndex s ↔
    (s.st = .body → 2 ≤ s.idx.toNat ∧ s.idx.toNat ≤ s.len.toNat + 2) ∧
    (s.st = .done → s.idx.toNat = s.len.toNat + 3) ∧ s.idx.toNat ≤ s.params.bufCap := Iff.rfl

@[simp] theorem invSum_iff : InvSum s ↔ ((s.st = .settle ∨ s.st = .lenwait ∨ s.st = .body) →
    s.acc.toNat = sumBytes (s.buf.firstBytes s.idx.toNat) % 256) := Iff.rfl

@[simp] theorem invSync_iff : InvSync s ↔ (s.st = .sync → s.idx = 0 ∧ s.acc = 0) ∧
    ((s.st = .sync ∨ s.st = .settle ∨ s.st = .lenwait) → s.len = 0) := Iff.rfl

@[simp] theorem invTimer_iff : InvTimer s ↔ (s.st = .sync → s.tmr ≤ s.tsync) ∧
    (s.st = .settle → s.tmr ≤ s.params.tSettle) ∧ (s.st = .lenwait → s.tmr ≤ s.params.tLen) ∧
    (s.st = .body → s.tmr ≤ s.params.tBody) := Iff.rfl

end

/-! ### The invariants, by control state -/

/-- What the invariants say in SYNC. -/
structure SyncFacts (s : State) : Prop where
  bufferOk : BufferOk s
  err : s.err = .none
  idx : s.idx = 0
  acc : s.acc = 0
  len : s.len = 0
  timer : s.tmr ≤ s.tsync

/-- What the invariants say between the sentinel and the length byte, where the limit of the phase is `l`. -/
structure HeadFacts (l : Half) (s : State) : Prop where
  bufferOk : BufferOk s
  err : s.err = .none
  sentinel : bufRead s 0 = 0x40
  idx : s.idx = 1
  acc : s.acc = 0x40
  len : s.len = 0
  timer : s.tmr ≤ l

/-- What the invariants say from the length byte on: the head of the frame is in BUF, and the frame fits. -/
structure FrameFacts (s : State) : Prop where
  bufferOk : BufferOk s
  err : s.err = .none
  sentinel : bufRead s 0 = 0x40
  lenPos : 1 ≤ s.len.toNat
  fits : s.len.toNat + 3 ≤ s.params.bufCap
  length : bufRead s 1 = s.len

/-- What the invariants say in BODY. -/
structure BodyFacts (s : State) : Prop extends FrameFacts s where
  payloadFits : s.len.toNat ≤ s.maxpay.toNat + 1
  idxLow : 2 ≤ s.idx.toNat
  idxHigh : s.idx.toNat ≤ s.len.toNat + 2
  sum : s.acc.toNat = sumBytes (s.buf.firstBytes s.idx.toNat) % 256
  timer : s.tmr ≤ s.params.tBody

/-- What the invariants say in DONE. -/
structure DoneFacts (s : State) : Prop extends FrameFacts s where
  idx : s.idx.toNat = s.len.toNat + 3

theorem zero_le_half (l : Half) : 0 ≤ l := BitVec.le_def.mpr (Nat.zero_le _)

theorem err_of_invError {s : State} (h : InvError s) (hs : s.st ≠ .error) : s.err = .none :=
  not_not.mp (h.not.mpr hs)

theorem Memory.firstBytes_zero (m : Memory) : m.firstBytes 0 = [] := rfl

theorem Memory.firstBytes_one (m : Memory) : m.firstBytes 1 = [m.read 0] := rfl

/-- The sum of a buffer that holds just the sentinel. -/
theorem sum_sentinel {s : State} (h0 : bufRead s 0 = 0x40) : sumBytes (s.buf.firstBytes 1) % 256 = 0x40 := by
  rw [bufRead] at h0
  simp [Memory.firstBytes_one, h0, sumBytes]

section
variable {s : State}

theorem inv_iff_of_idle (hs : s.st = .idle) :
    Inv s ↔ BufferOk s ∧ s.err = .none ∧ s.idx.toNat ≤ s.params.bufCap := by
  constructor
  · rintro ⟨hbuf, -, herr, -, -, hidx, -, -, -⟩
    exact ⟨hbuf, err_of_invError herr (by simp [hs]), hidx.2.2⟩
  · rintro ⟨hbuf, herr, hidx⟩
    simp [Inv, hs, herr, hidx, hbuf]

theorem inv_iff_of_sync (hs : s.st = .sync) : Inv s ↔ SyncFacts s := by
  constructor
  · rintro ⟨hbuf, -, herr, -, -, -, -, hsync, htimer⟩
    obtain ⟨hidx, hacc⟩ := hsync.1 hs
    exact ⟨hbuf, err_of_invError herr (by simp [hs]), hidx, hacc, hsync.2 (.inl hs), htimer.1 hs⟩
  · rintro ⟨hbuf, herr, hidx, hacc, hlen, htimer⟩
    simp [Inv, hs, herr, hidx, hacc, hlen, htimer, hbuf]

theorem inv_iff_of_settle (hs : s.st = .settle) : Inv s ↔ HeadFacts s.params.tSettle s := by
  constructor
  · rintro ⟨hbuf, -, herr, hsent, -, -, -, hsync, htimer⟩
    obtain ⟨hidx, hacc⟩ := hsent.2 (.inl hs)
    exact ⟨hbuf, err_of_invError herr (by simp [hs]), hsent.1 (.inl hs), hidx, hacc, hsync.2 (.inr (.inl hs)),
      htimer.2.1 hs⟩
  · rintro ⟨hbuf, herr, hsent, hidx, hacc, hlen, htimer⟩
    have hcap := hbuf.1.1
    simp [Inv, hs, herr, hsent, hidx, hacc, hlen, htimer, hbuf, sum_sentinel hsent]
    omega

theorem inv_iff_of_lenwait (hs : s.st = .lenwait) : Inv s ↔ HeadFacts s.params.tLen s := by
  constructor
  · rintro ⟨hbuf, -, herr, hsent, -, -, -, hsync, htimer⟩
    obtain ⟨hidx, hacc⟩ := hsent.2 (.inr hs)
    exact ⟨hbuf, err_of_invError herr (by simp [hs]), hsent.1 (.inr (.inl hs)), hidx, hacc, hsync.2 (.inr (.inr hs)),
      htimer.2.2.1 hs⟩
  · rintro ⟨hbuf, herr, hsent, hidx, hacc, hlen, htimer⟩
    have hcap := hbuf.1.1
    simp [Inv, hs, herr, hsent, hidx, hacc, hlen, htimer, hbuf, sum_sentinel hsent]
    omega

theorem inv_iff_of_body (hs : s.st = .body) : Inv s ↔ BodyFacts s := by
  constructor
  · rintro ⟨hbuf, -, herr, hsent, hlen, hidx, hsum, -, htimer⟩
    obtain ⟨hpos, hfits, hbuf1⟩ := hlen.1 (.inl hs)
    exact ⟨⟨hbuf, err_of_invError herr (by simp [hs]), hsent.1 (by simp [hs]), hpos, hfits, hbuf1⟩, hlen.2 hs,
      (hidx.1 hs).1, (hidx.1 hs).2, hsum (by simp [hs]), htimer.2.2.2 hs⟩
  · rintro ⟨⟨hbuf, herr, hsent, hpos, hfits, hbuf1⟩, hpay, hlow, hhigh, hsum, htimer⟩
    simp [Inv, hs, herr, hsent, hpos, hfits, hbuf1, hpay, hlow, hhigh, ← hsum, htimer, hbuf]
    omega

theorem inv_iff_of_done (hs : s.st = .done) : Inv s ↔ DoneFacts s := by
  constructor
  · rintro ⟨hbuf, -, herr, hsent, hlen, hidx, -, -, -⟩
    obtain ⟨hpos, hfits, hbuf1⟩ := hlen.1 (.inr hs)
    exact ⟨⟨hbuf, err_of_invError herr (by simp [hs]), hsent.1 (by simp [hs]), hpos, hfits, hbuf1⟩, hidx.2.1 hs⟩
  · rintro ⟨⟨hbuf, herr, hsent, hpos, hfits, hbuf1⟩, hidx⟩
    simp [Inv, hs, herr, hsent, hpos, hfits, hbuf1, hidx, hbuf]

theorem inv_iff_of_error (hs : s.st = .error) :
    Inv s ↔ BufferOk s ∧ (s.err ≠ .none ∧ s.err ≠ .unused5 ∧ s.err ≠ .unused6 ∧ s.err ≠ .unused7) ∧
      s.idx.toNat ≤ s.params.bufCap := by
  constructor
  · rintro ⟨hbuf, hcodes, herr, -, -, hidx, -, -, -⟩
    exact ⟨hbuf, ⟨herr.mpr hs, hcodes.2⟩, hidx.2.2⟩
  · rintro ⟨hbuf, ⟨hnone, hcodes⟩, hidx⟩
    simp [Inv, hs, hnone, hcodes, hidx, hbuf]

end

/-! ### Cycles that are no part of a frame -/

/-- The end of a cycle writes no field the invariants speak of. -/
theorem inv_endOfCycle (s n : State) : Inv (endOfCycle s n) ↔ Inv n := Iff.rfl

theorem inv_resetBlock {s : State} (hbuf : BufferOk s) : Inv (resetBlock s) :=
  (inv_iff_of_idle (resetBlock_st s)).mpr ⟨hbuf, rfl, Nat.zero_le _⟩

theorem inv_startFrame {s : State} (hbuf : BufferOk s) : Inv (startFrame s) :=
  (inv_iff_of_sync (startFrame_st s)).mpr ⟨hbuf, rfl, rfl, rfl, rfl, zero_le_half _⟩

/-- Outside the busy states the invariants do not speak of TSYNC, MAXPAY, ACC, TMR or the flags, so a command other
than START keeps them. -/
theorem inv_of_same_frame {s t : State} (h : Inv s) (hb : busy s = false) (hst : t.st = s.st) (herr : t.err = s.err)
    (hlen : t.len = s.len) (hidx : t.idx = s.idx) (hbuf : t.buf = s.buf) (hparams : t.params = s.params) : Inv t := by
  have hfree := (busy_iff s).not.mp (by simp [hb])
  simp only [not_or] at hfree
  obtain ⟨hsync, hsettle, hlenwait, hbody⟩ := hfree
  obtain ⟨hok, hcodes, hierr, hsent, hilen, hiidx, -, -, -⟩ := h
  simp_all [Inv, bufRead]

theorem inv_commandResult {s : State} (h : Inv s) (hb : busy s = false) : Inv (commandResult s) := by
  by_cases hc : fetchCommand (currentInputs s) = some .start
  · exact commandResult_of_start hb hc ▸ inv_startFrame h.1
  · obtain ⟨hst, herr, hlen, hidx, -⟩ := commandResult_of_ne_start hb hc
    exact inv_of_same_frame h hb hst herr hlen hidx (commandResult_buf s) (commandResult_params s)

/-! ### The cycles of a frame -/

/-- An error leaves the block within the invariants, wherever IDX stood inside the buffer. -/
theorem inv_raiseError {e : Err} {n : State} (hbuf : BufferOk n) (hidx : n.idx.toNat ≤ n.params.bufCap)
    (he : e = .syncTimeout ∨ e = .lengthTimeout ∨ e = .invalidLength ∨ e = .shortRead) : Inv (raiseError e n) := by
  refine (inv_iff_of_error (raiseError_st e n)).mpr ⟨hbuf, ?_, hidx⟩
  rcases he with rfl | rfl | rfl | rfl <;> simp

section
variable {s : State}

theorem bufferOk_afterCommand (h : BufferOk s) : BufferOk (afterCommand s) := by
  simpa using h

/-- A byte stored inside BUF leaves it canonical. -/
theorem bufferOk_store (h : BufferOk s) (i : Nat) (v : Byte) :
    s.params.wf ∧ (storedBuffer (afterCommand s) i v).wf s.params.bufCap = true :=
  ⟨h.1, by simpa using storedBuffer_wf (bufferOk_afterCommand h).2 i v⟩

/-- Storing the next byte makes the stored bytes one longer. -/
theorem firstBytes_store (h : BufferOk s) {i : Nat} (hi : i < s.params.bufCap) (v : Byte) :
    (storedBuffer (afterCommand s) i v).firstBytes (i + 1) = s.buf.firstBytes i ++ [v] := by
  have hread := storedBuffer_afterCommand_read h hi v
  rw [Memory.firstBytes_succ, hread, if_pos rfl]
  congr 1
  exact Memory.firstBytes_congr fun j hj => by rw [hread, if_neg (by omega)]; rfl

/-- Adding a stored byte to ACC keeps ACC the sum of the stored bytes. -/
theorem addMod256_sum {a v : Byte} {bs : List Byte} (h : a.toNat = sumBytes bs % 256) :
    (addMod256 a v).toNat = sumBytes (bs ++ [v]) % 256 := by
  rw [addMod256_toNat, h, sumBytes_append]
  simp [sumBytes]

/-- A cycle that only counts its tick below the limit of the phase keeps the invariants. -/
theorem inv_countTick (h : Inv s) {l : Half} (hlim : limit s = some l) (ht : s.tmr < l) (k : Bool) :
    Inv (countTick k s (afterCommand s)) := by
  have htick : tinc k s.tmr ≤ l := tinc_le_of_lt ht
  obtain ⟨hbuf, hcodes, herr, hsent, hlen, hidx, hsum, hsync, -⟩ := h
  have htimer : InvTimer (countTick k s (afterCommand s)) := by
    simp only [limit] at hlim
    split at hlim <;> simp_all [InvTimer]
  refine ⟨by simpa using hbuf, by simpa using hcodes, by simpa using herr, ?_, ?_, by simpa using hidx,
    by simpa using hsum, by simpa using hsync, htimer⟩
  · simpa [bufRead] using hsent
  · simpa [bufRead] using hlen

theorem inv_acceptSentinel (h : Inv s) (hs : s.st = .sync) : Inv (acceptSentinel s (afterCommand s)) := by
  obtain ⟨hbuf, herr, -, hacc, hlen, -⟩ := (inv_iff_of_sync hs).mp h
  have hcap : 0 < s.params.bufCap := by have := hbuf.1.1; omega
  refine (inv_iff_of_settle (acceptSentinel_st s _)).mpr ⟨by simpa using bufferOk_store hbuf 0 _, by simpa using herr,
    ?_, rfl, ?_, by simpa using hlen, zero_le_half _⟩
  · simp [bufRead, storedBuffer_afterCommand_read hbuf hcap, sentinel]
  · simp [hacc, addMod256, sentinel]

theorem inv_settleEnd (h : Inv s) (hs : s.st = .settle) : Inv { afterCommand s with st := .lenwait, tmr := 0 } := by
  obtain ⟨hbuf, herr, hsent, hidx, hacc, hlen, -⟩ := (inv_iff_of_settle hs).mp h
  exact (inv_iff_of_lenwait rfl).mpr ⟨by simpa using hbuf, by simpa using herr, by simpa [bufRead] using hsent,
    by simpa using hidx, by simpa using hacc, by simpa using hlen, zero_le_half _⟩

theorem inv_acceptLength (h : Inv s) (hs : s.st = .lenwait) {b : Byte} (hl : lenok s.params s.maxpay b = true) :
    Inv (acceptLength b s (afterCommand s)) := by
  obtain ⟨hbuf, herr, hsent, hidx, hacc, -, -⟩ := (inv_iff_of_lenwait hs).mp h
  obtain ⟨hpos, hfits, hpay⟩ := (lenok_iff _ _ _).mp hl
  have hcap : 1 < s.params.bufCap := by have := hbuf.1.1; omega
  have hread := storedBuffer_afterCommand_read hbuf hcap b
  refine (inv_iff_of_body (acceptLength_st b s _)).mpr ⟨⟨by simpa using bufferOk_store hbuf 1 b, by simpa using herr,
    ?_, hpos, by simpa using hfits, ?_⟩, by simpa using hpay, by simp, ?_, ?_, zero_le_half _⟩
  · simpa [bufRead, hread] using hsent
  · simp [bufRead, hread]
  · simp
  · have hsum : s.acc.toNat = sumBytes (s.buf.firstBytes 1) % 256 := by rw [sum_sentinel hsent, hacc]; rfl
    simpa [firstBytes_store hbuf hcap] using addMod256_sum hsum

theorem idx_succ_toNat {i : Index} {l : Byte} (h : i.toNat ≤ l.toNat + 2) : (i + 1).toNat = i.toNat + 1 := by
  bv_omega

/-- A byte stored past the head leaves the head of the frame as it is. -/
theorem frameFacts_store (h : BodyFacts s) {t : State} (v : Byte)
    (hbuf : t.buf = storedBuffer (afterCommand s) s.idx.toNat v) (hparams : t.params = s.params) (herr : t.err = s.err)
    (hlen : t.len = s.len) : FrameFacts t := by
  have hlow := h.idxLow
  have hhigh := h.idxHigh
  have hfits := h.fits
  have hread := storedBuffer_afterCommand_read h.bufferOk (show s.idx.toNat < s.params.bufCap by omega) v
  refine ⟨?_, herr ▸ h.err, ?_, hlen ▸ h.lenPos, hlen ▸ hparams ▸ h.fits, ?_⟩
  · rw [BufferOk, hbuf, hparams]
    exact bufferOk_store h.bufferOk _ v
  · rw [bufRead, hbuf, hread, if_neg (by omega)]
    exact h.sentinel
  · rw [bufRead, hbuf, hread, if_neg (by omega), hlen]
    exact h.length

theorem inv_storeBodyByte (h : Inv s) (hs : s.st = .body) (ht : s.tmr < s.params.tBody)
    (hi : s.idx.toNat < s.len.toNat + 2) (c : Inputs) : Inv (storeBodyByte c s (afterCommand s)) := by
  have hbody := (inv_iff_of_body hs).mp h
  have hlow := hbody.idxLow
  have hfits := hbody.fits
  have hsucc := idx_succ_toNat hi.le
  have hframe : FrameFacts (storeBodyByte c s (afterCommand s)) :=
    frameFacts_store hbody c.rxData (by simp) (by simp) (by simp) (by simp)
  refine (inv_iff_of_body (by simpa using hs)).mpr ⟨hframe, by simpa using hbody.payloadFits, ?_, ?_, ?_, ?_⟩
  · rw [storeBodyByte_idx, hsucc]; omega
  · rw [storeBodyByte_idx, storeBodyByte_len, withCommandFlags_len, hsucc]; omega
  · rw [storeBodyByte_idx, storeBodyByte_buf, storeBodyByte_acc, hsucc, firstBytes_store hbody.bufferOk (by omega)]
    exact addMod256_sum hbody.sum
  · cases hm : s.params.bodyMode with
    | interByte => simpa [hm] using zero_le_half _
    | total => simpa [hm] using tinc_le_of_lt ht

theorem inv_storeChecksum (h : Inv s) (hs : s.st = .body) (hi : s.idx.toNat = s.len.toNat + 2) (c : Inputs) :
    Inv (storeChecksum c s (afterCommand s)) := by
  have hbody := (inv_iff_of_body hs).mp h
  have hframe : FrameFacts (storeChecksum c s (afterCommand s)) :=
    frameFacts_store hbody c.rxData (by simp) (by simp) (by simp) (by simp)
  refine (inv_iff_of_done (storeChecksum_st c s _)).mpr ⟨hframe, ?_⟩
  rw [storeChecksum_idx, storeChecksum_len, withCommandFlags_len, idx_succ_toNat hi.le, hi]

/-- Every cycle of a frame keeps the invariants. -/
theorem FrameCycle.inv {n : State} (h : Inv s) (hc : FrameCycle s n) : Inv n := by
  have hbuf : BufferOk (afterCommand s) := bufferOk_afterCommand h.1
  have hidx : (afterCommand s).idx.toNat ≤ (afterCommand s).params.bufCap := by simpa using h.2.2.2.2.2.1.2.2
  cases hc with
  | syncTimeout hs ht hf => exact inv_raiseError hbuf hidx (by simp)
  | sentinel hs ht hf hd => exact inv_acceptSentinel h hs
  | syncWait hs ht hd => exact inv_countTick h (by simp [limit, hs]) ht _
  | settleEnd hs ht hf => exact inv_settleEnd h hs
  | settleWait hs ht hf => exact inv_countTick h (by simp [limit, hs]) ht _
  | lengthTimeout hs ht hf => exact inv_raiseError hbuf hidx (by simp)
  | validLength hs ht hf hl => exact inv_acceptLength h hs hl
  | invalidLength hs ht hf hl => exact inv_raiseError hbuf hidx (by simp)
  | lengthWait hs ht hf => exact inv_countTick h (by simp [limit, hs]) ht _
  | shortRead hs ht hf => exact inv_raiseError hbuf hidx (by simp)
  | bodyByte hs ht hf hi => exact inv_storeBodyByte h hs ht hi _
  | checksum hs ht hf hi => exact inv_storeChecksum h hs hi _
  | pastFrame hs ht hf hi => exact absurd ((inv_iff_of_body hs).mp h).idxHigh (by omega)
  | bodyWait hs ht hf => exact inv_countTick h (by simp [limit, hs]) ht _

end

/-! ### The obligations -/

/-- Settles O42, by evaluation of the reset state. -/
theorem resetStateHasTheInvariants : Obligations.ResetStateHasTheInvariants :=
  (inv_iff_of_idle rfl).mpr ⟨by decide, rfl, by decide⟩

/-- Settles O43: the reset values meet the invariants on any canonical buffer. -/
theorem resetEstablishesTheInvariants : Obligations.ResetEstablishesTheInvariants := fun _ hbuf hr =>
  ⟨_, step_eq_resetBlock hr, inv_resetBlock hbuf⟩

/-- Settles O41, by the class of the cycle: reset, a command outside a frame, or a cycle of a frame. -/
theorem everyStepKeepsTheInvariants : Obligations.EveryStepKeepsTheInvariants := by
  intro s h
  cases hr : (currentInputs s).rst with
  | true => exact ⟨_, step_eq_resetBlock hr, inv_resetBlock h.1⟩
  | false =>
    cases hb : busy s with
    | false => exact ⟨_, step_free hr hb, inv_commandResult h hb⟩
    | true =>
      obtain ⟨n, hstep, hc⟩ := exists_frameCycle hr hb
      exact ⟨_, hstep, (inv_endOfCycle s n).mpr (hc.inv h)⟩

end Sys2Proof.Machine
end

section
/-! PROOFS. Who writes each field (10_state.md section 12), and what BUF holds after a cycle. -/

namespace Sys2Proof.Machine

/-! ### The writers of the command part -/

section
variable {s : State}

theorem commandResult_tsync_writer (h : (commandResult s).tsync ≠ s.tsync) :
    busy s = false ∧ ∃ v, fetchCommand (currentInputs s) = some (.tsync v) ∧ (commandResult s).tsync = v := by
  cases hb : busy s with
  | true => exact absurd h (by simp [commandResult_busy hb])
  | false =>
    revert h
    unfold commandResult
    rcases fetchCommand (currentInputs s) with _ | (_ | _ | t | _ | _ | _ | _ | _) <;> simp [unlessBusy_free hb]

theorem commandResult_maxpay_writer (h : (commandResult s).maxpay ≠ s.maxpay) :
    busy s = false ∧ ∃ v, fetchCommand (currentInputs s) = some (.maxpay v) ∧ (commandResult s).maxpay = v := by
  cases hb : busy s with
  | true => exact absurd h (by simp [commandResult_busy hb])
  | false =>
    revert h
    unfold commandResult
    rcases fetchCommand (currentInputs s) with _ | (_ | _ | _ | m | _ | _ | _ | _) <;> simp [unlessBusy_free hb]

/-- Of the commands, only START, RCLR and RADD write ACC. -/
theorem commandResult_acc_writer (h : (commandResult s).acc ≠ s.acc) :
    fetchCommand (currentInputs s) = some .start ∨ fetchCommand (currentInputs s) = some .rclr ∨
      ∃ b, fetchCommand (currentInputs s) = some (.radd b) := by
  cases hb : busy s with
  | true => exact absurd h (by simp [commandResult_busy hb])
  | false =>
    revert h
    unfold commandResult
    rcases fetchCommand (currentInputs s) with _ | (_ | _ | _ | _ | _ | b | _ | _) <;> simp [unlessBusy_free hb]

theorem commandResult_ign_writer (h : (commandResult s).ign ≠ s.ign) :
    (busy s = false ∧ fetchCommand (currentInputs s) = some .start ∧ (commandResult s).ign = false) ∨
    (busy s = true ∧ (commandResult s).ign = true ∧
      ∃ i, fetchCommand (currentInputs s) = some i ∧ i ≠ .nop ∧ ∀ w, i ≠ .illegal w) := by
  revert h
  unfold commandResult
  cases hb : busy s <;> rcases fetchCommand (currentInputs s) with _ | (_ | _ | _ | _ | _ | _ | _ | _) <;>
    simp [unlessBusy_ign, hb]

theorem commandResult_ill_writer (h : (commandResult s).ill ≠ s.ill) :
    (busy s = false ∧ fetchCommand (currentInputs s) = some .start ∧ (commandResult s).ill = false) ∨
    ((commandResult s).ill = true ∧ ∃ w, fetchCommand (currentInputs s) = some (.illegal w)) := by
  rw [commandResult_ill] at h ⊢
  split at h
  next hill => exact .inr ⟨if_pos hill, _, hill⟩
  next hill =>
    split at h
    next hstart => exact .inl ⟨hstart.2, hstart.1, by rw [if_neg hill, if_pos hstart]⟩
    next => exact absurd rfl h

/-! ### The writers of BUF -/

/-- A cycle of a frame stores at most one byte, the one it takes, and within the invariants at IDX inside the buffer. -/
theorem FrameCycle.buf_cases {n : State} (h : FrameCycle s n) :
    n.buf = s.buf ∨ fire (currentInputs s) s = true ∧ ∃ i, (Inv s → i = s.idx.toNat ∧ i < s.params.bufCap) ∧
      n.buf = storedBuffer (afterCommand s) i (currentInputs s).rxData := by
  cases h with
  | sentinel hs ht hf hd =>
    refine .inr ⟨hf, 0, fun h => ?_, by rw [acceptSentinel_buf, hd]; rfl⟩
    have hfacts := (inv_iff_of_sync hs).mp h
    have hcap := hfacts.bufferOk.1.1
    exact ⟨by rw [hfacts.idx]; rfl, by omega⟩
  | validLength hs ht hf hl =>
    refine .inr ⟨hf, 1, fun h => ?_, acceptLength_buf _ s _⟩
    have hfacts := (inv_iff_of_lenwait hs).mp h
    have hcap := hfacts.bufferOk.1.1
    exact ⟨by rw [hfacts.idx]; rfl, by omega⟩
  | bodyByte hs ht hf hi =>
    refine .inr ⟨hf, _, fun h => ⟨rfl, ?_⟩, storeBodyByte_buf _ s _⟩
    have hfits := ((inv_iff_of_body hs).mp h).fits
    omega
  | checksum hs ht hf hi =>
    refine .inr ⟨hf, _, fun h => ⟨rfl, ?_⟩, storeChecksum_buf _ s _⟩
    have hfits := ((inv_iff_of_body hs).mp h).fits
    omega
  | _ => exact .inl (by simp)

end

theorem receiveOrReset_params (c : Inputs) (s n : State) : (receiveOrReset c s n).params = n.params := by
  unfold receiveOrReset
  split
  · rfl
  · split
    · exact receive_params c s n
    · rfl

/-- What any cycle does to BUF: nothing, or the byte it takes is stored. -/
theorem step_buf_cases (s : State) : ∃ t, step s = .next t ∧ t.params = s.params ∧
    (t.buf = s.buf ∨ fire (currentInputs s) s = true ∧ ∃ i, (Inv s → i = s.idx.toNat ∧ i < s.params.bufCap) ∧
      t.buf = storedBuffer (afterCommand s) i (currentInputs s).rxData) := by
  cases hr : (currentInputs s).rst with
  | true => exact ⟨_, step_eq_resetBlock hr, rfl, .inl rfl⟩
  | false =>
    cases hb : busy s with
    | false => exact ⟨_, step_free hr hb, commandResult_params s, .inl (commandResult_buf s)⟩
    | true =>
      obtain ⟨n, hstep, hc⟩ := exists_frameCycle hr hb
      exact ⟨_, hstep, hc.keeps_settings.2.2, hc.buf_cases⟩

/-- Outside reset the receiver passes on the TSYNC and MAXPAY the command part leaves. -/
theorem receiveOrReset_settings {c : Inputs} {s n : State} (hr : c.rst = false) :
    (receiveOrReset c s n).tsync = n.tsync ∧ (receiveOrReset c s n).maxpay = n.maxpay := by
  simp only [receiveOrReset, hr, Bool.false_eq_true, if_false, receive, receiveSync, receiveSettle, receiveLenwait,
    receiveBody]
  repeat' split
  all_goals exact ⟨rfl, rfl⟩

/-! ### The obligations -/

/-- Settles O40: a cycle leaves BUF or stores one byte in it, and every store keeps the form, also a stray one. -/
theorem bufferStaysCanonical : Obligations.BufferStaysCanonical := by
  intro s hwf
  obtain ⟨t, hstep, hparams, hbuf⟩ := step_buf_cases s
  refine ⟨t, hstep, ?_⟩
  rw [hparams]
  obtain hsame | ⟨-, i, -, hstore⟩ := hbuf
  · rwa [hsame]
  · rw [hstore]
    simpa using storedBuffer_wf (n := afterCommand s) (by simpa using hwf) i (currentInputs s).rxData

/-- Settles O44: the one store of a cycle is at IDX, and leaves every other byte. -/
theorem bufferChangesOnlyAtIdx : Obligations.BufferChangesOnlyAtIdx := by
  intro s h
  obtain ⟨t, hstep, -, hbuf⟩ := step_buf_cases s
  refine ⟨t, hstep, fun i hne => ?_⟩
  obtain hsame | ⟨hf, j, hj, hstore⟩ := hbuf
  · exact absurd (congrArg (Memory.read · i) hsame) hne
  · obtain ⟨hidx, hlt⟩ := hj h
    have hread : bufRead t i = if i = j then (currentInputs s).rxData else bufRead s i := by
      rw [bufRead, hstore, storedBuffer_afterCommand_read h.1 hlt]
    by_cases hij : i = j
    · rw [if_pos hij] at hread
      exact ⟨hij.trans hidx, hij ▸ hlt, hf, hread⟩
    · rw [if_neg hij] at hread
      exact absurd hread hne

/-- Settles O21: TSYNC, MAXPAY and the flags are what the command part leaves, and the fields of a frame are written by
the command part when the block is not busy and by the cycles of the frame when it is. -/
theorem eachFieldHasOnlyItsWriters : Obligations.EachFieldHasOnlyItsWriters := by
  intro s hr
  obtain ⟨htsync, hmaxpay⟩ := receiveOrReset_settings (s := s) (n := commandResult s) hr
  have hign := receiveOrReset_ign (currentInputs s) s (commandResult s)
  have hill := receiveOrReset_ill (currentInputs s) s (commandResult s)
  simp only [hr, Bool.false_eq_true, if_false] at hign hill
  refine ⟨_, step_eq s, ?_, ?_, ?_, ?_, ?_, ?_, ?_, ?_⟩
  · rw [endOfCycle_tsync, htsync]
    exact commandResult_tsync_writer
  · rw [endOfCycle_maxpay, hmaxpay]
    exact commandResult_maxpay_writer
  · cases hb : busy s with
    | true => exact fun _ => .inl rfl
    | false =>
      intro hne
      by_contra hstart
      rw [receiveOrReset_of_free hr hb] at hne
      have hsame := commandResult_of_ne_start hb (not_or.mp hstart).2
      simp [hsame] at hne
  · cases hb : busy s with
    | true => exact fun _ => .inl rfl
    | false =>
      rw [receiveOrReset_of_free hr hb]
      exact fun hne => .inr (commandResult_acc_writer hne)
  · intro hne hb
    by_contra hf
    obtain ⟨n, hstep, hc⟩ := exists_frameCycle hr hb
    obtain ⟨hlen, hidx, hacc, -⟩ := hc.keeps_bytes_of_no_fire (Bool.eq_false_iff.mpr hf)
    rw [step_eq, Host.Outcome.next.injEq] at hstep
    simp [hstep, hlen, hidx, hacc] at hne
  · intro hne
    obtain ⟨t, hstep, -, hsame | ⟨hf, -⟩⟩ := step_buf_cases s
    · rw [step_eq, Host.Outcome.next.injEq] at hstep
      exact absurd (hstep ▸ hsame) hne
    · exact ⟨busy_of_fire hf, hf⟩
  · rw [endOfCycle_ign, hign]
    exact commandResult_ign_writer
  · rw [endOfCycle_ill, hill]
    exact commandResult_ill_writer

end Sys2Proof.Machine
end

section
/-! PROOFS. What the end of a frame records: the four errors (60_exceptions.md section 1), and the frame in DONE with
its sum (10_state.md R39 items 3 and 5). -/

namespace Sys2Proof.Machine

section
variable {s n : State}

/-- Of the cycles of a frame, only the checksum byte's ends in DONE. -/
theorem FrameCycle.eq_storeChecksum (h : FrameCycle s n) (hn : n.st = .done) :
    s.st = .body ∧ s.idx.toNat = s.len.toNat + 2 ∧ fire (currentInputs s) s = true ∧
      n = storeChecksum (currentInputs s) s (afterCommand s) := by
  cases h with
  | checksum hs ht hf hi => exact ⟨hs, hi, hf, rfl⟩
  | syncTimeout | sentinel | settleEnd | lengthTimeout | validLength | invalidLength | shortRead => cases hn
  | syncWait hs | settleWait hs | lengthWait hs | pastFrame hs | bodyWait hs | bodyByte hs => simp [hs] at hn

/-- The bytes stored before the checksum byte are still the first ones after it. -/
theorem firstBytes_storeChecksum (h : BodyFacts s) (hi : s.idx.toNat = s.len.toNat + 2) (c : Inputs) :
    (storeChecksum c s (afterCommand s)).buf.firstBytes (s.len.toNat + 2) = s.buf.firstBytes s.idx.toNat := by
  have hfits := h.fits
  have hread := storedBuffer_afterCommand_read h.bufferOk (show s.idx.toNat < s.params.bufCap by omega) c.rxData
  rw [← hi, storeChecksum_buf]
  exact Memory.firstBytes_congr fun j hj => by rw [hread, if_neg (by omega)]; rfl

/-- Outside DONE both items, as R39 states them, are in the invariants. -/
theorem stated_of_inv (h : Inv n) (hn : n.st ≠ .done) : InvLengthStated n ∧ InvSumStated n := by
  refine ⟨fun hst => ?_, fun hst => ?_⟩
  · have hbody := (inv_iff_of_body (hst.resolve_right hn)).mp h
    have hpay := hbody.payloadFits
    exact ⟨hbody.lenPos, hbody.fits, by omega, hbody.length⟩
  · obtain hs | hs | hs | hs := hst
    · have hhead := (inv_iff_of_settle hs).mp h
      simp [hhead.idx, hhead.len, hhead.acc, sum_sentinel hhead.sentinel]
    · have hhead := (inv_iff_of_lenwait hs).mp h
      simp [hhead.idx, hhead.len, hhead.acc, sum_sentinel hhead.sentinel]
    · have hbody := (inv_iff_of_body hs).mp h
      rw [min_eq_left hbody.idxHigh]
      exact hbody.sum
    · exact absurd hs hn

/-- Every cycle of a frame ends with both items as R39 states them, the one that enters DONE too. -/
theorem FrameCycle.stated (hc : FrameCycle s n) (h : Inv s) : InvLengthStated n ∧ InvSumStated n := by
  by_cases hn : n.st = .done
  · have hdone := (inv_iff_of_done hn).mp (hc.inv h)
    obtain ⟨hs, hi, -, rfl⟩ := hc.eq_storeChecksum hn
    have hbody := (inv_iff_of_body hs).mp h
    have hpay := hbody.payloadFits
    refine ⟨fun _ => ⟨hdone.lenPos, hdone.fits, ?_, hdone.length⟩, fun _ => ?_⟩
    · simp only [storeChecksum_len, storeChecksum_maxpay, withCommandFlags_len, withCommandFlags_maxpay]
      omega
    · rw [hdone.idx, min_eq_right (by omega)]
      simp only [storeChecksum_len, storeChecksum_acc, withCommandFlags_len, withCommandFlags_acc]
      rw [firstBytes_storeChecksum hbody hi]
      exact hbody.sum
  · exact stated_of_inv (hc.inv h) hn

/-- A MAXPAY that is not below LEN - 1, and any other command, keeps item 3 as stated. -/
theorem lengthStated_commandResult (hb : busy s = false) (h : InvLengthStated s)
    (hhost : s.st = .done → ∀ m, fetchCommand (currentInputs s) = some (.maxpay m) → s.len.toNat - 1 ≤ m.toNat) :
    InvLengthStated (commandResult s) := by
  by_cases hc : fetchCommand (currentInputs s) = some .start
  · simp [InvLengthStated, commandResult_of_start hb hc]
  · obtain ⟨hst, -, hlen, -, -⟩ := commandResult_of_ne_start hb hc
    have hdone : s.st ≠ .body := fun hs => by simp [busy, hs, St.isBusy] at hb
    intro hin
    rw [hst] at hin
    obtain ⟨hpos, hfits, hpay, hbuf⟩ := h hin
    refine ⟨hlen ▸ hpos, by rwa [hlen, commandResult_params], ?_, by rwa [bufRead, commandResult_buf, hlen]⟩
    by_cases hsame : (commandResult s).maxpay = s.maxpay
    · rwa [hlen, hsame]
    · obtain ⟨-, v, hv, hmaxpay⟩ := commandResult_maxpay_writer hsame
      rw [hlen, hmaxpay]
      exact hhost (hin.resolve_left hdone) v hv

/-- Any command but RCLR and RADD keeps item 5 as stated. -/
theorem sumStated_commandResult (hb : busy s = false) (h : InvSumStated s)
    (hhost : s.st = .done → fetchCommand (currentInputs s) ≠ some .rclr ∧
      ∀ b, fetchCommand (currentInputs s) ≠ some (.radd b)) : InvSumStated (commandResult s) := by
  by_cases hc : fetchCommand (currentInputs s) = some .start
  · simp [InvSumStated, commandResult_of_start hb hc]
  · obtain ⟨hst, -, hlen, hidx, -⟩ := commandResult_of_ne_start hb hc
    have hfree := (busy_iff s).not.mp (by simp [hb])
    simp only [not_or] at hfree
    obtain ⟨-, hsettle, hlenwait, hbody⟩ := hfree
    intro hin
    rw [hst] at hin
    have hdone : s.st = .done := by simpa [hsettle, hlenwait, hbody] using hin
    obtain ⟨hrclr, hradd⟩ := hhost hdone
    have hacc : (commandResult s).acc = s.acc := by
      by_contra hne
      obtain hw | hw | ⟨b, hw⟩ := commandResult_acc_writer hne
      · exact hc hw
      · exact hrclr hw
      · exact hradd b hw
    rw [hacc, hlen, hidx, commandResult_buf]
    exact h hin

end

/-! ### The obligations -/

/-- Settles O45: an error is raised by one of four cycles, each with what its phase holds and a timer at its limit, but
for the length byte's, which comes before the limit. -/
theorem errorsRecordWhatHappened : Obligations.ErrorsRecordWhatHappened := by
  intro s h hb hr
  obtain ⟨n, hstep, hc⟩ := exists_frameCycle hr hb
  refine ⟨_, hstep, fun herr => ?_⟩
  rw [endOfCycle_st] at herr
  cases hc with
  | syncTimeout hs ht hf =>
    obtain ⟨-, -, hidx, hacc, hlen, htimer⟩ := (inv_iff_of_sync hs).mp h
    exact .inl ⟨rfl, rfl, by simpa using BitVec.le_antisymm htimer ht, by simpa using hidx, by simpa using hlen,
      by simpa using hacc, by simp⟩
  | lengthTimeout hs ht hf =>
    obtain ⟨-, -, hsent, hidx, hacc, hlen, htimer⟩ := (inv_iff_of_lenwait hs).mp h
    exact .inr (.inl ⟨rfl, rfl, by simpa using BitVec.le_antisymm htimer ht, by simpa using hidx, by simpa using hlen,
      by simpa using hacc, by simpa [bufRead] using hsent⟩)
  | invalidLength hs ht hf hl =>
    obtain ⟨-, -, hsent, hidx, hacc, -, -⟩ := (inv_iff_of_lenwait hs).mp h
    exact .inr (.inr (.inl ⟨rfl, rfl, rfl, by simpa using hidx, by simpa using hacc, by simpa [bufRead] using hsent,
      by simp [bufRead], by simpa using ht, by simpa using hl⟩))
  | shortRead hs ht hf =>
    have hbody := (inv_iff_of_body hs).mp h
    exact .inr (.inr (.inr ⟨rfl, rfl, by simpa using BitVec.le_antisymm hbody.timer ht, by simp,
      by simpa using hbody.idxLow, by simpa using hbody.idxHigh, by simpa using hbody.sum⟩))
  | sentinel | settleEnd | validLength | checksum => cases herr
  | syncWait hs | settleWait hs | lengthWait hs | pastFrame hs | bodyWait hs | bodyByte hs => simp [hs] at herr

/-- Settles O46: the cycle is R137's, which leaves the bytes before the last and their sum. -/
theorem doneHoldsTheFrameAndItsChecksum : Obligations.DoneHoldsTheFrameAndItsChecksum := by
  intro s h hr hs ht hv hi
  have hbody := (inv_iff_of_body hs).mp h
  have hpos := hbody.lenPos
  obtain ⟨m, hstep, hidx, hread, -⟩ := checksumByteCompletesTheFrame s h.1 hr hs ht hv hi hbody.fits
  have hkept (i : Nat) (hlt : i < s.len.toNat + 2) : m.read i = bufRead s i := by rw [hread, if_neg (by omega)]
  have hlast : m.read (s.len.toNat + 2) = (currentInputs s).rxData := by rw [hread, if_pos hi.symm]
  have hsum : s.acc.toNat = sumBytes (m.firstBytes (s.len.toNat + 2)) % 256 := by
    rw [Memory.firstBytes_congr (m' := s.buf) hkept, ← hi]
    exact hbody.sum
  refine ⟨_, hstep, rfl, by simpa using hidx, by simp, ?_, ?_, ?_, ?_, ?_, ?_, ?_, ?_⟩
  · simpa [bufRead, hkept] using hbody.sentinel
  · simpa [bufRead, hkept 1 (by omega)] using hbody.length
  · simpa [bufRead] using hlast
  · simpa [bufRead] using hkept
  · simpa using hsum
  · exact chk_eq_compute (by simpa using hsum)
  · simp [rawFrame, bufRead, hlast, Nat.add_comm 3]
  · simp [frameResult]

/-- Settles O56: a cycle of a frame ends with both items as stated, and outside a frame only the named commands write
what they speak of. -/
theorem statedItemsHoldUntilTheHostWrites : Obligations.StatedItemsHoldUntilTheHostWrites := by
  refine ⟨⟨by decide, by decide⟩, fun s h => ?_⟩
  cases hr : (currentInputs s).rst with
  | true =>
    have hidle := inv_resetBlock h.1
    obtain ⟨hlength, hsum⟩ := stated_of_inv hidle (by simp)
    exact ⟨_, step_eq_resetBlock hr, hidle, fun _ _ => hlength, fun _ _ => hsum, fun _ => ⟨hlength, hsum⟩⟩
  | false =>
    cases hb : busy s with
    | false =>
      exact ⟨_, step_free hr hb, inv_commandResult h hb, lengthStated_commandResult hb, sumStated_commandResult hb,
        fun hs => by simp [busy, hs, St.isBusy] at hb⟩
    | true =>
      obtain ⟨n, hstep, hc⟩ := exists_frameCycle hr hb
      obtain ⟨hlength, hsum⟩ := hc.stated h
      exact ⟨_, hstep, (inv_endOfCycle s n).mpr (hc.inv h), fun _ _ => hlength, fun _ _ => hsum,
        fun _ => ⟨hlength, hsum⟩⟩

end Sys2Proof.Machine
end

section
/-! PROOFS. Decoding and encoding, the match and mask list, and the assembler (30_encoding.md sections 1 to 4). -/

namespace Sys2Proof.Machine

/-! ### The words of the three formats, as numbers -/

theorem append_toNat {m n : Nat} (x : BitVec m) (y : BitVec n) : (x ++ y).toNat = 2 ^ n * x.toNat + y.toNat := by
  rw [BitVec.toNat_append, Nat.shiftLeft_eq, Nat.mul_comm, Nat.two_pow_add_eq_or_of_lt y.isLt]

theorem wordZ_toNat (op : BitVec 4) : (wordZ op).toNat = 2 ^ 28 * op.toNat := append_toNat op 0#28

theorem wordI16_toNat (op : BitVec 4) (imm : Half) : (wordI16 op imm).toNat = 2 ^ 28 * op.toNat + imm.toNat := by
  have h : (wordI16 op imm).toNat = 2 ^ 16 * (op ++ 0#12).toNat + imm.toNat := append_toNat _ imm
  rw [h, append_toNat, BitVec.toNat_zero]
  omega

theorem wordI8_toNat (op : BitVec 4) (imm : Byte) : (wordI8 op imm).toNat = 2 ^ 28 * op.toNat + imm.toNat := by
  have h : (wordI8 op imm).toNat = 2 ^ 8 * (op ++ 0#20).toNat + imm.toNat := append_toNat _ imm
  rw [h, append_toNat, BitVec.toNat_zero]
  omega

/-! ### Decoding an encoded operation -/

theorem decodeWord_wordI16_tsync (t : Half) : decodeWord (wordI16 0x2 t) = .tsync t := by
  have hw : wordI16 0x2 t = 0x20000000#32 ||| t.zeroExtend 32 := BitVec.eq_of_toNat_eq <| by
    rw [wordI16_toNat, or_operand_toNat (by decide) (by decide)]
    rfl
  rw [hw, decodeWord_tsyncWord]

theorem decodeWord_wordI8_maxpay (m : Byte) : decodeWord (wordI8 0x3 m) = .maxpay m := by
  have hw : wordI8 0x3 m = 0x30000000#32 ||| m.zeroExtend 32 := BitVec.eq_of_toNat_eq <| by
    rw [wordI8_toNat, or_operand_toNat (by decide) (by decide)]
    rfl
  rw [hw, decodeWord_maxpayWord]

theorem decodeWord_wordI8_radd (b : Byte) : decodeWord (wordI8 0x5 b) = .radd b := by
  have hw : wordI8 0x5 b = 0x50000000#32 ||| b.zeroExtend 32 := BitVec.eq_of_toNat_eq <| by
    rw [wordI8_toNat, or_operand_toNat (by decide) (by decide)]
    rfl
  rw [hw, decodeWord_raddWord]

/-- A command decoded from a word is encoded as that word, row by row: its fields are the word's, and all others 0. -/
theorem encode_of_classify {w : Word} {i : Instr} (h : classify w = .ok i) : encode i = .cmd w := by
  unfold classify at h
  split at h
  next => cases h
  next hrsv =>
    have hrsv : w.toNat / 2 ^ 16 % 2 ^ 12 = 0 := by rw [← rsvField_toNat, not_not.mp hrsv]; rfl
    have hop := opField_toNat w
    have himm := immField_toNat w
    have hhigh := immHigh_toNat w
    have hlow := immLow_toNat w
    split at h
    case h_1 hk | h_2 hk | h_5 hk =>
      split at h
      next hz =>
        cases h
        refine congrArg PortWord.cmd (BitVec.eq_of_toNat_eq ?_)
        rw [hz] at himm
        rw [wordZ_toNat]
        bv_omega
      next => cases h
    case h_3 hk =>
      cases h
      refine congrArg PortWord.cmd (BitVec.eq_of_toNat_eq ?_)
      rw [wordI16_toNat, himm]
      bv_omega
    case h_4 hk | h_6 hk =>
      split at h
      next hz =>
        cases h
        refine congrArg PortWord.cmd (BitVec.eq_of_toNat_eq ?_)
        rw [hz] at hhigh
        rw [wordI8_toNat, hlow]
        bv_omega
      next => cases h
    case h_7 => cases h

/-- What a word decodes to is encoded as that word: an illegal operation carries it (log 11). -/
theorem encode_decodeWord (w : Word) : encode (decodeWord w) = .cmd w := by
  unfold decodeWord
  cases h : classify w with
  | ok i => exact encode_of_classify h
  | error r => rfl

/-! ### The match and mask list -/

/-- A format Z command is decoded from its own word only, the one its full mask lets through. -/
theorem decodeWord_iff_wordZ {i : Instr} {p : Word} (hdec : decodeWord p = i) (henc : encode i = .cmd p) (w : Word) :
    decodeWord w = i ↔ w &&& 0xFFFFFFFF#32 = p := by
  have hmask : w &&& 0xFFFFFFFF#32 = w := BitVec.and_allOnes
  rw [hmask]
  constructor
  · intro h
    have := encode_decodeWord w
    rw [h, henc] at this
    exact (PortWord.cmd.inj this).symm
  · rintro rfl
    exact hdec

/-- A word whose bits from `n` up are those of `p` has the same number above bit `n`. -/
theorem div_of_masked {w p : Word} {n : Nat} (h : w &&& BitVec.allOnes 32 <<< n = p) :
    w.toNat / 2 ^ n = p.toNat / 2 ^ n := by
  have hle : w.toNat / 2 ^ n * 2 ^ n < 2 ^ 32 := lt_of_le_of_lt (Nat.div_mul_le_self _ _) w.isLt
  rw [← h, ← BitVec.shiftLeft_ushiftRight, BitVec.toNat_shiftLeft, BitVec.toNat_ushiftRight, Nat.shiftRight_eq_div_pow,
    Nat.shiftLeft_eq, Nat.mod_eq_of_lt hle, Nat.mul_div_cancel _ (Nat.two_pow_pos n)]

theorem tsync_row (w : Word) : (∃ t, decodeWord w = .tsync t) ↔ w &&& 0xFFFF0000#32 = 0x20000000#32 := by
  constructor
  · rintro ⟨t, h⟩
    have hw := encode_decodeWord w
    rw [h] at hw
    rw [← PortWord.cmd.inj hw, Laws.EncodedPort.tsync_masked]
  · intro h
    have hdiv : w.toNat / 2 ^ 16 = 0x2000 := div_of_masked (n := 16) h
    have hw : w = wordI16 0x2 (immField w) := BitVec.eq_of_toNat_eq <| by
      rw [wordI16_toNat, immField_toNat]
      bv_omega
    exact ⟨_, hw ▸ decodeWord_wordI16_tsync _⟩

/-- A word that agrees with a format I8 pattern above its operand is that command's word of its low byte. -/
theorem eq_wordI8_of_masked {w : Word} {op : BitVec 4} (h : w &&& 0xFFFFFF00#32 = wordI8 op 0) :
    w = wordI8 op (immLow w) := by
  have hdiv : w.toNat / 2 ^ 8 = (wordI8 op 0).toNat / 2 ^ 8 := div_of_masked (n := 8) h
  have hzero : (0 : Byte).toNat = 0 := rfl
  apply BitVec.eq_of_toNat_eq
  rw [wordI8_toNat, immLow_toNat]
  rw [wordI8_toNat] at hdiv
  omega

theorem maxpay_row (w : Word) : (∃ m, decodeWord w = .maxpay m) ↔ w &&& 0xFFFFFF00#32 = 0x30000000#32 := by
  constructor
  · rintro ⟨m, h⟩
    have hw := encode_decodeWord w
    rw [h] at hw
    rw [← PortWord.cmd.inj hw, Laws.EncodedPort.maxpay_masked]
  · intro h
    exact ⟨_, (eq_wordI8_of_masked (op := 0x3) h) ▸ decodeWord_wordI8_maxpay _⟩

theorem radd_row (w : Word) : (∃ b, decodeWord w = .radd b) ↔ w &&& 0xFFFFFF00#32 = 0x50000000#32 := by
  constructor
  · rintro ⟨b, h⟩
    have hw := encode_decodeWord w
    rw [h] at hw
    rw [← PortWord.cmd.inj hw, Laws.EncodedPort.radd_masked]
  · intro h
    exact ⟨_, (eq_wordI8_of_masked (op := 0x5) h) ▸ decodeWord_wordI8_radd _⟩

theorem nop_row (w : Word) : decodeWord w = .nop ↔ w &&& 0xFFFFFFFF#32 = 0x00000000#32 :=
  decodeWord_iff_wordZ (by decide) (by decide) w

theorem start_row (w : Word) : decodeWord w = .start ↔ w &&& 0xFFFFFFFF#32 = 0x10000000#32 :=
  decodeWord_iff_wordZ (by decide) (by decide) w

theorem rclr_row (w : Word) : decodeWord w = .rclr ↔ w &&& 0xFFFFFFFF#32 = 0x40000000#32 :=
  decodeWord_iff_wordZ (by decide) (by decide) w

/-- A word is ILLEGAL exactly when no row of the list matches it (R73). -/
theorem decodeWord_illegal_iff_no_row (w : Word) :
    decodeWord w = .illegal w ↔ ∀ r ∈ opcodeRows, w &&& r.mask ≠ r.pattern := by
  simp only [opcodeRows, List.forall_mem_cons, ne_eq, ← nop_row, ← start_row, ← tsync_row, ← maxpay_row, ← rclr_row,
    ← radd_row]
  cases h : decodeWord w with
  | read a => exact absurd h (decodeWord_ne_read w a)
  | illegal v => simp [eq_of_decodeWord_illegal h]
  | _ => simp

theorem isCommandWord_eq_false_iff (w : Word) : isCommandWord w = false ↔ decodeWord w = .illegal w := by
  simp [decodeWord_illegal_iff_no_row, isCommandWord, rowMatches]

/-- Every row fixes OP, and no two rows have the same OP. -/
theorem row_unique {w : Word} {r q : OpRow} (hr : r ∈ opcodeRows) (hq : q ∈ opcodeRows)
    (hrw : w &&& r.mask = r.pattern) (hqw : w &&& q.mask = q.pattern) : r = q := by
  have hfixed : ∀ x ∈ opcodeRows, x.mask &&& 0xF0000000#32 = 0xF0000000#32 ∧
      x.pattern &&& 0xF0000000#32 = x.pattern := by decide
  have hop : ∀ x ∈ opcodeRows, w &&& x.mask = x.pattern → w &&& 0xF0000000#32 = x.pattern := by
    intro x hx hxw
    obtain ⟨hmask, hpattern⟩ := hfixed x hx
    rw [← hpattern, ← hxw, BitVec.and_assoc, hmask]
  have hdistinct : ∀ x ∈ opcodeRows, ∀ y ∈ opcodeRows, x.pattern = y.pattern → x = y := by decide
  exact hdistinct r hr q hq ((hop r hr hrw).symm.trans (hop q hq hqw))

/-! ### The decode table -/

theorem immHigh_eq (w : Word) : (w.extractLsb' 0 16).extractLsb' 8 8 = immHigh w := by
  apply BitVec.eq_of_toNat_eq
  rw [immHigh_toNat, BitVec.extractLsb'_toNat, ← immField, immField_toNat, Nat.shiftRight_eq_div_pow]
  omega

theorem immLow_eq (w : Word) : (w.extractLsb' 0 16).extractLsb' 0 8 = immLow w := by
  apply BitVec.eq_of_toNat_eq
  rw [immLow_toNat, BitVec.extractLsb'_toNat, ← immField, immField_toNat, Nat.shiftRight_zero]
  omega

section
variable {w : Word} (hrsv : rsvField w = 0)
include hrsv

theorem decodeWord_op0 (hop : opField w = 0x0) : decodeWord w = if immField w = 0 then .nop else .illegal w := by
  by_cases himm : immField w = 0#16 <;> simp [decodeWord, classify, hop, hrsv, himm]

theorem decodeWord_op1 (hop : opField w = 0x1) : decodeWord w = if immField w = 0 then .start else .illegal w := by
  by_cases himm : immField w = 0#16 <;> simp [decodeWord, classify, hop, hrsv, himm]

theorem decodeWord_op2 (hop : opField w = 0x2) : decodeWord w = .tsync (immField w) := by
  simp [decodeWord, classify, hop, hrsv]

theorem decodeWord_op3 (hop : opField w = 0x3) :
    decodeWord w = if immHigh w = 0 then .maxpay (immLow w) else .illegal w := by
  by_cases himm : immHigh w = 0#8 <;> simp [decodeWord, classify, hop, hrsv, himm]

theorem decodeWord_op4 (hop : opField w = 0x4) : decodeWord w = if immField w = 0 then .rclr else .illegal w := by
  by_cases himm : immField w = 0#16 <;> simp [decodeWord, classify, hop, hrsv, himm]

theorem decodeWord_op5 (hop : opField w = 0x5) :
    decodeWord w = if immHigh w = 0 then .radd (immLow w) else .illegal w := by
  by_cases himm : immHigh w = 0#8 <;> simp [decodeWord, classify, hop, hrsv, himm]

end

/-! ### The obligations on words -/

/-- Settles O1, operation by operation: an illegal word has no row, so it decodes to itself. -/
theorem decodeOfEncodeIsTheInstruction : Obligations.DecodeOfEncodeIsTheInstruction := by
  intro i hwf
  cases i with
  | nop | start | rclr => decide
  | tsync t => exact decodeWord_wordI16_tsync t
  | maxpay m => exact decodeWord_wordI8_maxpay m
  | radd b => exact decodeWord_wordI8_radd b
  | read a => rfl
  | illegal w => exact (isCommandWord_eq_false_iff w).mp (by simpa [Instr.wellFormed] using hwf)

/-- Settles O2, port by port: what a word decodes to is illegal only where no row matches. -/
theorem encodeOfDecodeIsTheWord : Obligations.EncodeOfDecodeIsTheWord := by
  intro p
  cases p with
  | rdAddr a => exact ⟨rfl, rfl⟩
  | cmd w =>
    refine ⟨?_, encode_decodeWord w⟩
    change (decodeWord w).wellFormed = true
    cases h : decodeWord w with
    | illegal v =>
      have hv := eq_of_decodeWord_illegal h
      simp [Instr.wellFormed, hv, (isCommandWord_eq_false_iff w).mpr (hv ▸ h)]
    | _ => rfl

/-- Settles O3: the case table from `classify`, and the list row by row. -/
theorem decodeFollowsTheTableAndTheMasks : Obligations.DecodeFollowsTheTableAndTheMasks := by
  intro w
  simp only [immHigh_eq, immLow_eq]
  exact ⟨fun hrsv => (decodeWord_illegal_iff w).mpr (.inr (.inl hrsv)), decodeWord_op0, decodeWord_op1, decodeWord_op2,
    decodeWord_op3, decodeWord_op4, decodeWord_op5, fun _ hop => (decodeWord_illegal_iff w).mpr (.inl hop), nop_row w,
    start_row w, tsync_row w, maxpay_row w, rclr_row w, radd_row w, decodeWord_illegal_iff_no_row w,
    fun _ hr _ hq => row_unique hr hq⟩

/-- Settles O5, word by word. -/
theorem writtenOutWordsDecode : Obligations.WrittenOutWordsDecode := by
  refine ⟨?_, ?_, ?_, ?_, ?_, ?_, ?_, ?_, ?_⟩ <;> decide

/-! ### The assembler -/

/-- An operand that fits `n` bits is the same number on 32 wires. -/
theorem ofNat_eq_zeroExtend {n x : Nat} (hn : n ≤ 32) (hx : x < 2 ^ n) :
    BitVec.ofNat 32 x = (BitVec.ofNat n x).zeroExtend 32 := by
  have h32 : (2 : Nat) ^ n ≤ 2 ^ 32 := Nat.pow_le_pow_right (by decide) hn
  apply BitVec.eq_of_toNat_eq
  rw [BitVec.toNat_setWidth_of_le hn, BitVec.toNat_ofNat, BitVec.toNat_ofNat, Nat.mod_eq_of_lt hx,
    Nat.mod_eq_of_lt (by omega)]

theorem assemble_tsync (t : Nat) :
    (assemble (.tsync t)).map decode = if t ≤ 0xFFFF then some (.tsync (BitVec.ofNat 16 t)) else none := by
  by_cases ht : t ≤ 0xFFFF
  · simp only [assemble, if_pos ht, Option.map_some, decode]
    rw [ofNat_eq_zeroExtend (n := 16) (by decide) (by omega)]
    exact congrArg some (decodeWord_tsyncWord _)
  · simp only [assemble, if_neg ht, Option.map_none]

theorem assemble_maxpay (m : Nat) :
    (assemble (.maxpay m)).map decode = if m ≤ 0xFF then some (.maxpay (BitVec.ofNat 8 m)) else none := by
  by_cases hm : m ≤ 0xFF
  · simp only [assemble, if_pos hm, Option.map_some, decode]
    rw [ofNat_eq_zeroExtend (n := 8) (by decide) (by omega)]
    exact congrArg some (decodeWord_maxpayWord _)
  · simp only [assemble, if_neg hm, Option.map_none]

theorem assemble_radd (b : Nat) :
    (assemble (.radd b)).map decode = if b ≤ 0xFF then some (.radd (BitVec.ofNat 8 b)) else none := by
  by_cases hb : b ≤ 0xFF
  · simp only [assemble, if_pos hb, Option.map_some, decode]
    rw [ofNat_eq_zeroExtend (n := 8) (by decide) (by omega)]
    exact congrArg some (decodeWord_raddWord _)
  · simp only [assemble, if_neg hb, Option.map_none]

theorem assemble_radd_byte (b : Byte) : (assemble (.radd b.toNat)).map decode = some (.radd b) := by
  rw [assemble_radd, if_pos (by omega), BitVec.ofNat_toNat, BitVec.setWidth_eq]

theorem assemble_read (r : ReadName) : (assemble (.read r)).map decode =
    if r.address ≤ 0x1FF then some (.read (BitVec.ofNat 9 r.address)) else none := by
  by_cases hr : r.address ≤ 0x1FF <;> simp [assemble, hr, decode]

/-- A line's inputs ask for the operation the line assembles to, and no other. -/
theorem inputs_alone {i : AsmLine} {p : PortWord} (h : assemble i = some p) : i.alone.inputs = some (portInputs p) := by
  simp [ProgramLine.inputs, AsmLine.alone, h]

/-- Lines that each assemble to their operation assemble together to the list of operations. -/
theorem mapM_assemble {α : Type} {f : α → AsmLine} {g : α → Instr}
    (h : ∀ a, (assemble (f a)).map decode = some (g a)) (l : List α) :
    ((l.map f).mapM assemble).map (List.map decode) = some (l.map g) := by
  induction l with
  | nil => rfl
  | cons a l ih =>
    obtain ⟨p, hp, hd⟩ := Option.map_eq_some_iff.mp (h a)
    obtain ⟨ps, hps, hds⟩ := Option.map_eq_some_iff.mp ih
    simp [List.mapM_cons, hp, hps, hd, hds]

theorem mapM_assemble_replicate {i : AsmLine} {o : Instr} (h : (assemble i).map decode = some o) (n : Nat) :
    ((List.replicate n i).mapM assemble).map (List.map decode) = some (List.replicate n o) := by
  simpa using mapM_assemble (f := fun _ => i) (g := fun _ => o) (fun _ => h) (List.replicate n ())

/-- Settles O6, line by line, and a pseudo-instruction by the lines it stands for. -/
theorem assembledLinesDecodeToTheirOperations : Obligations.AssembledLinesDecodeToTheirOperations := by
  refine ⟨assemble_tsync, assemble_maxpay, assemble_radd, by decide, by decide, by decide, fun i => ?_,
    fun a => assemble_read (.addr a), by decide, fun w => ?_, fun i r w hi hr => ?_, fun i p hi => ?_, fun n _ _ => ?_,
    fun fuel s => ?_, fun bs _ _ => ?_, fun _ => rfl⟩
  · have haddr : (ReadName.buf i).address ≤ 0x1FF ↔ i ≤ 0xFF := by simp only [ReadName.address]; omega
    rw [assemble_read]
    simp only [haddr]
    rfl
  · by_cases hw : w < 2 ^ 32 <;> simp only [assemble, hw, if_true, if_false] <;> rfl
  · exact ⟨{ commandInputs w with rdAddr := BitVec.ofNat 9 r.address },
      by simp [ProgramLine.inputs, hi, show assemble (.read r) = _ from if_pos hr], rfl, rfl⟩
  · refine ⟨_, inputs_alone hi, ?_, ?_⟩
    · rintro w rfl
      rfl
    · rintro a rfl
      exact ⟨rfl, rfl⟩
  · exact mapM_assemble_replicate (i := .nop) (by decide) n
  · simp only [Pseudo.expand]
    cases pollRun fuel s with
    | none => rfl
    | some r => exact mapM_assemble_replicate (i := .read .status) (by decide) r.1
  · have hlines := mapM_assemble assemble_radd_byte bs
    obtain ⟨ps, hps, hds⟩ := Option.map_eq_some_iff.mp hlines
    have hrclr : decode (.cmd 0x40000000#32) = .rclr := by decide
    simp only [Pseudo.expand, List.map_map, Option.bind_some, List.mapM_cons]
    simp [Function.comp_def, hps, hds, assemble, hrclr]

end Sys2Proof.Machine
end

section
/-! PROOFS. The parts a step runs, and the inputs no step looks at (10_state.md sections 5 and 9,
42_config_and_access.md section 1). -/

namespace Sys2Proof.Machine

/-! ### Inputs that are ignored -/

section
variable {s : State} {c d : Inputs}

/-- Two input records have the same step when they present the same command, address and reset, and the receiver does
the same with both. -/
theorem step_withInputs_congr (hcmd : fetchCommand d = fetchCommand c) (hrst : d.rst = c.rst)
    (haddr : d.rdAddr = c.rdAddr) (hrx : ∀ n, receiveOrReset d s n = receiveOrReset c s n) :
    step (withInputs s d) = step (withInputs s c) := by
  have hresult : commandResult (withInputs s d) =
      { commandResult (withInputs s c) with inputs := d :: s.inputs.tail } :=
    commandResult_setInputs (s := withInputs s c) hcmd
  have hpart : receiveOrReset d (withInputs s d) (commandResult (withInputs s c)) =
      receiveOrReset c (withInputs s c) (commandResult (withInputs s c)) := hrx _
  rw [step_eq, step_eq, currentInputs_withInputs, currentInputs_withInputs, hresult, receiveOrReset_setInputs, hpart]
  simp only [endOfCycle, currentInputs_withInputs, hrst, haddr]
  rfl

theorem receiveOrReset_congr (hrst : d.rst = c.rst) (hrx : c.rst = false → ∀ n, receive d s n = receive c s n)
    (n : State) : receiveOrReset d s n = receiveOrReset c s n := by
  cases hr : c.rst with
  | true => rw [receiveOrReset_of_rst (hrst.trans hr), receiveOrReset_of_rst hr]
  | false => simp only [receiveOrReset, hrst, hr, hrx hr]

/-- The receiver looks at `rx_data` only with `rx_valid`. -/
theorem receive_setData_of_not_valid (hv : c.rxValid = false) (b : Byte) (n : State) :
    receive { c with rxData := b } s n = receive c s n := by
  simp [receive, receiveSync, receiveSettle, receiveLenwait, receiveBody, hv]

/-- Outside reset the receiver looks at what is offered only with `rx_ready`: a phase that takes no byte has expired, or
is SETTLE. -/
theorem receive_setRx_of_not_ready (hr : c.rst = false) (hready : rxReady c.rst s = false) (v : Bool) (b : Byte)
    (n : State) : receive { c with rxValid := v, rxData := b } s n = receive c s n := by
  have hexpired (hst : s.st = .sync ∨ s.st = .lenwait ∨ s.st = .body) : expired s = true := by
    by_contra he
    exact absurd ((rxReady_iff c.rst s).mpr ⟨hr, hst, Bool.eq_false_iff.mpr he⟩) (by simp [hready])
  cases hs : s.st with
  | sync => simp [receive, hs, receiveSync, hexpired (.inl hs)]
  | lenwait => simp [receive, hs, receiveLenwait, hexpired (.inr (.inl hs))]
  | body => simp [receive, hs, receiveBody, hexpired (.inr (.inr hs))]
  | settle => simp [receive, hs, receiveSettle]
  | idle | done | error | unused7 => simp [receive, hs]

theorem step_setData_of_not_valid (hv : c.rxValid = false) (b : Byte) :
    step (withInputs s { c with rxData := b }) = step (withInputs s c) :=
  step_withInputs_congr rfl rfl rfl (receiveOrReset_congr rfl fun _ => receive_setData_of_not_valid hv b)

theorem step_setRx_of_not_ready (hready : rxReady c.rst s = false) (v : Bool) (b : Byte) :
    step (withInputs s { c with rxValid := v, rxData := b }) = step (withInputs s c) :=
  step_withInputs_congr rfl rfl rfl
    (receiveOrReset_congr rfl fun hr => receive_setRx_of_not_ready hr hready v b)

/-- Without a fire no byte has a part in the step. -/
theorem step_setData_of_no_fire (hf : fire c s = false) (b : Byte) :
    step (withInputs s { c with rxData := b }) = step (withInputs s c) := by
  obtain hv | hready := Bool.and_eq_false_iff.mp hf
  · exact step_setData_of_not_valid hv b
  · exact step_setRx_of_not_ready hready c.rxValid b

end

/-! ### What the step runs -/

theorem exec_read (a : RdAddr) (s : State) :
    exec (.read a) s = .next { s with out := { s.out with rdData := readPort s a } } := rfl

/-- No operation stops the machine: `exec` answers a next state. -/
theorem exec_completes (i : Instr) (s : State) : ∃ t, exec i s = .next t := by
  cases i <;> exact ⟨_, rfl⟩

theorem fetchCommand_of_valid {c : Inputs} (hr : c.rst = false) (hv : c.cmdValid = true) :
    fetchCommand c = some (decode (.cmd c.cmdWord)) := by
  simp [fetchCommand, hr, hv]

theorem fetchCommand_of_not_valid {c : Inputs} (hv : c.cmdValid = false) : fetchCommand c = none := by
  simp [fetchCommand, hv]

/-- The step of a cycle with no command, from the state its READ leaves. -/
theorem step_of_no_command {s r : State} (hread : exec (fetchRead (currentInputs s)) s = .next r)
    (hc : fetchCommand (currentInputs s) = none) :
    step s = .next (closeCycle (currentInputs s) s (receiveOrReset (currentInputs s) s r)) := by
  simp [step, hread, hc]

/-- The step of a cycle with a command, from the state its READ leaves. -/
theorem step_of_command {s r n : State} {i : Instr} (hread : exec (fetchRead (currentInputs s)) s = .next r)
    (hc : fetchCommand (currentInputs s) = some i) (hexec : exec i r = .next n) :
    step s = .next (closeCycle (currentInputs s) s (receiveOrReset (currentInputs s) s n)) := by
  simp [step, hread, hc, hexec]

theorem receiveOrReset_of_no_rst {c : Inputs} (hr : c.rst = false) (s n : State) :
    receiveOrReset c s n = if busy s then receive c s n else n := by
  simp [receiveOrReset, hr]

/-! ### The obligations -/

/-- Settles O29: of a reset cycle only `rd_addr` is seen, and otherwise each part of the step sees its own ports. -/
theorem ignoredInputsChangeNothing : Obligations.IgnoredInputsChangeNothing := by
  intro s c
  refine ⟨fun w hv => ?_, fun b hv => step_setData_of_not_valid hv b, fun v b hready =>
    step_setRx_of_not_ready hready v b, fun d hc hd haddr => ?_⟩
  · refine step_withInputs_congr ?_ rfl rfl (receiveOrReset_congr rfl fun _ _ => rfl)
    exact (fetchCommand_of_not_valid (c := { c with cmdWord := w }) hv).trans (fetchCommand_of_not_valid hv).symm
  · refine step_withInputs_congr ?_ (hd.trans hc.symm) haddr fun n => ?_
    · rw [fetchCommand_of_rst hd, fetchCommand_of_rst hc]
    · rw [receiveOrReset_of_rst hd, receiveOrReset_of_rst hc]

/-- Settles O13: the effect of READ is `execRead`. -/
theorem readShowsTheValueAndChangesNothing : Obligations.ReadShowsTheValueAndChangesNothing := fun s a =>
  exec_read a s

/-- Settles O14: the effect of an illegal word is `execIllegal`. -/
theorem illegalSetsIllAndNothingElse : Obligations.IllegalSetsIllAndNothingElse := fun _ _ => rfl

/-- Settles O16, by whether the cycle has a command. -/
theorem stepRunsTheDecodedOperations : Obligations.StepRunsTheDecodedOperations := by
  intro s
  have hread := exec_read (currentInputs s).rdAddr s
  refine ⟨_, hread, fun hr => ?_, fun hr hv => ?_, fun hr hv => ?_⟩
  · rw [step_of_no_command hread (fetchCommand_of_rst hr), receiveOrReset_of_rst hr]
  · rw [step_of_no_command hread (fetchCommand_of_not_valid hv), receiveOrReset_of_no_rst hr]
  · obtain ⟨n, hn⟩ := exec_completes (decode (.cmd (currentInputs s).cmdWord))
      { s with out := { s.out with rdData := readPort s (currentInputs s).rdAddr } }
    refine ⟨n, hn, ?_⟩
    rw [step_of_command hread (fetchCommand_of_valid hr hv) hn, receiveOrReset_of_no_rst hr]

theorem tablePortWord_cmd {w : Nat} (hw : w < 2 ^ 32) : tablePortWord 32 w = some (.cmd (BitVec.ofNat 32 w)) := by
  exact (if_neg (by decide)).trans (if_pos hw)

theorem tablePortWord_rdAddr {w : Nat} (hw : w < 512) : tablePortWord 9 w = some (.rdAddr (BitVec.ofNat 9 w)) := by
  exact (if_pos (by decide)).trans (if_pos hw)

/-- Settles O17: what is presented on a port is on that port in the coming cycle. -/
theorem presentedInstructionIsFetchedNext : Obligations.PresentedInstructionIsFetchedNext := by
  intro s w
  refine ⟨fun hw => ?_, fun hw => ?_⟩
  · simp only [State.withFetchWord, decodeTableWord, tablePortWord_cmd hw]
    exact ⟨rfl, rfl, rfl⟩
  · simp only [State.withFetchWord, decodeTableWord, tablePortWord_rdAddr hw]
    exact ⟨rfl, rfl, rfl, rfl⟩

/-- Settles O18: the step is one equation, and no part of it writes the parameters. -/
theorem everyStepCompletesAndKeepsTheParameters : Obligations.EveryStepCompletesAndKeepsTheParameters := fun s =>
  ⟨_, step_eq s, (receiveOrReset_params _ s _).trans (commandResult_params s), rfl, rfl⟩

end Sys2Proof.Machine
end

section
/-! PROOFS. The laws of the checksum function, and the reducer commands over a run (40_checksum_reducer.md section
3). -/

namespace Sys2Proof.Machine

/-! ### `compute` as a byte: the negation of the sum -/

/-- The sum of the bytes modulo 256, as a byte. -/
def byteSum (bs : List Byte) : Byte := BitVec.ofNat 8 (sumBytes bs)

theorem byteSum_nil : byteSum [] = 0 := rfl

theorem byteSum_cons (b : Byte) (bs : List Byte) : byteSum (b :: bs) = b + byteSum bs := by
  simp [byteSum, sumBytes, BitVec.ofNat_add]

theorem byteSum_append (xs ys : List Byte) : byteSum (xs ++ ys) = byteSum xs + byteSum ys := by
  simp [byteSum, sumBytes_append, BitVec.ofNat_add]

theorem compute_eq_neg_byteSum (bs : List Byte) : compute bs = -byteSum bs := by
  apply BitVec.eq_of_toNat_eq
  rw [compute_toNat, BitVec.toNat_neg, byteSum, BitVec.toNat_ofNat]

theorem sumBytes_perm {xs ys : List Byte} (h : xs.Perm ys) : sumBytes xs = sumBytes ys := by
  induction h with
  | nil => rfl
  | cons b _ ih => simp [sumBytes, ih]
  | swap a b l => simp only [sumBytes]; omega
  | trans _ _ ih₁ ih₂ => exact ih₁.trans ih₂

theorem compute_perm {xs ys : List Byte} (h : xs.Perm ys) : compute xs = compute ys := by
  rw [compute, compute, sumBytes_perm h]

theorem sumBytes_replicate (n : Nat) (b : Byte) : sumBytes (List.replicate n b) = n * b.toNat := by
  induction n with
  | zero => simp [sumBytes]
  | succ n ih => rw [List.replicate_succ, sumBytes, ih]; ring

/-- Adding `d` to one byte takes `d` from the checksum. -/
theorem compute_add_at (pre post : List Byte) (b d : Byte) :
    compute (pre ++ (b + d) :: post) = compute (pre ++ b :: post) - d := by
  simp only [compute_eq_neg_byteSum, byteSum_append, byteSum_cons]
  ring

/-- RADD when the block is not busy. -/
theorem exec_radd_free {s : State} (hb : busy s = false) (b : Byte) :
    exec (.radd b) s = .next { s with acc := addMod256 s.acc b } := by
  rw [exec_radd, unlessBusy_free hb]

/-! ### The reducer commands over a run -/

theorem run_succ {s t : State} (h : step s = .next t) (k : Nat) :
    Host.Core.run Sys2Proof.core (k + 1) s = Host.Core.run Sys2Proof.core k t := by
  have hcore : Sys2Proof.core.step s = .next t := h
  simp only [Host.Core.run, hcore]

theorem commandResult_of_rclr {s : State} (hb : busy s = false) (h : fetchCommand (currentInputs s) = some .rclr) :
    commandResult s = { s with acc := 0 } := by
  simp [commandResult, h, unlessBusy_free hb]

theorem commandResult_of_radd {s : State} {b : Byte} (hb : busy s = false)
    (h : fetchCommand (currentInputs s) = some (.radd b)) : commandResult s = { s with acc := addMod256 s.acc b } := by
  simp [commandResult, h, unlessBusy_free hb]

theorem raddOperands_cons_radd {c : Inputs} {b : Byte} (h : fetchCommand c = some (.radd b)) (cs : List Inputs) :
    raddOperands (c :: cs) = b :: raddOperands cs := by
  simp [raddOperands, h]

theorem raddOperands_cons_idle {c : Inputs} (h : fetchCommand c = none ∨ fetchCommand c = some .nop)
    (cs : List Inputs) : raddOperands (c :: cs) = raddOperands cs := by
  rcases h with h | h <;> simp [raddOperands, h]

/-- A cycle that may stand between RCLR and the end of a CSUM sequence. -/
abbrev CsumCycle (d : Inputs) : Prop :=
  d.rst = false ∧ (fetchCommand d = none ∨ fetchCommand d = some .nop ∨ ∃ b, fetchCommand d = some (.radd b))

/-- One cycle of a CSUM sequence adds its operand, if it has one. -/
theorem step_csumCycle {s : State} {d : Inputs} {ds : List Inputs} (hb : busy s = false) (hin : s.inputs = d :: ds)
    (hd : CsumCycle d) : ∃ t, step s = .next t ∧ t.inputs = ds ∧ t.st = s.st ∧ t.buf = s.buf ∧
      ∀ cs, t.acc + byteSum (raddOperands cs) = s.acc + byteSum (raddOperands (d :: cs)) := by
  have hcur := currentInputs_cons hin
  obtain ⟨hr, hcmd⟩ := hd
  refine ⟨_, step_free (hcur ▸ hr) hb, by simp [hin], ?_⟩
  obtain hidle | ⟨b, hadd⟩ := or_assoc.mpr hcmd
  · rw [commandResult_of_none_or_nop (hcur ▸ hidle)]
    exact ⟨rfl, rfl, fun cs => by rw [raddOperands_cons_idle hidle]; rfl⟩
  · rw [commandResult_of_radd hb (hcur ▸ hadd)]
    refine ⟨rfl, rfl, fun cs => ?_⟩
    rw [raddOperands_cons_radd hadd, byteSum_cons, endOfCycle_acc, addMod256_eq_add, BitVec.add_assoc]

/-- Over a CSUM sequence ACC grows by the sum of the operands. -/
theorem run_csumCycles (cs rest : List Inputs) : ∀ s : State, busy s = false → s.inputs = cs ++ rest →
    (∀ d ∈ cs, CsumCycle d) → ∃ t, Host.Core.run Sys2Proof.core cs.length s = .next t ∧
      State.acc t = s.acc + byteSum (raddOperands cs) ∧ State.st t = s.st ∧ State.buf t = s.buf := by
  induction cs with
  | nil => exact fun s _ _ _ => ⟨s, rfl, by simp [raddOperands, byteSum_nil], rfl, rfl⟩
  | cons d cs ih =>
    intro s hb hin hall
    rw [List.forall_mem_cons] at hall
    obtain ⟨u, hstep, hinu, hst, hbuf, hacc⟩ := step_csumCycle hb hin hall.1
    have hbu : busy u = false := by rw [busy, hst]; exact hb
    obtain ⟨t, hrun, hacct, hstt, hbuft⟩ := ih u hbu hinu hall.2
    exact ⟨t, (run_succ hstep _).trans hrun, hacct.trans (hacc cs), hstt.trans hst, hbuft.trans hbuf⟩

/-! ### The obligations -/

/-- Settles O47: RCLR clears ACC, and the rest of the sequence adds the operands. -/
theorem csumSequenceComputesTheChecksum : Obligations.CsumSequenceComputesTheChecksum := by
  refine ⟨fun s c cs rest hb hin hr hrclr hall => ?_, fun _ _ => compute_perm⟩
  have hcur := currentInputs_cons hin
  have hresult := commandResult_of_rclr hb (hcur ▸ hrclr)
  have hstep := step_free (hcur ▸ hr) hb
  rw [hresult] at hstep
  obtain ⟨t, hrun, hacc, hst, hbuf⟩ := run_csumCycles cs rest (endOfCycle s { s with acc := 0 }) hb (by simp [hin]) hall
  have hsum : (State.acc t).toNat = sumBytes (raddOperands cs) % 256 := by simp [hacc, byteSum]
  exact ⟨t, (run_succ hstep _).trans hrun, hsum, chk_eq_compute hsum, hst, hbuf⟩

/-- Settles O48: `compute` is the negation of the sum modulo 256, and the sum is additive. -/
theorem checksumLaws : Obligations.ChecksumLaws := by
  refine ⟨fun bs => ?_, fun s bs hb _ => ?_, fun bs => ?_, fun b => ?_, fun _ _ => compute_perm, fun pre post b d =>
    ⟨compute_add_at pre post b d, fun hd h => ?_⟩, fun pre mid post a b d => ?_⟩
  · rw [compute_toNat]
    omega
  · have hacc : addMod256 s.acc (chk s) = 0 := (addMod256_eq_zero_iff _ _).mpr rfl
    exact ⟨_, exec_radd_free hb (chk s), hacc, (zeroFlag_iff _).mpr hacc⟩
  · simp [compute_eq_neg_byteSum, byteSum_append, byteSum_cons, byteSum_nil]
  · rw [compute, sumBytes_replicate, Nat.mul_mod_right]
    rfl
  · rw [compute_add_at] at h
    exact hd (by simpa using h)
  · simp only [compute_eq_neg_byteSum, byteSum_append, byteSum_cons, List.cons_append, List.append_assoc]
    ring

/-- Settles O50: the sum of the fixed bytes is 0x69, and the checksum byte makes the frame's sum 0 modulo 256. -/
theorem outboundFramesAreThoseOfTheTable : Obligations.OutboundFramesAreThoseOfTheTable := by
  refine ⟨fun cc => ⟨rfl, ?_, ?_⟩, by decide, by decide, by decide, by decide, by decide, by decide, by decide⟩
  · have hsum : sumBytes [0x68, 0x01, cc] = 0x69 + cc.toNat := by
      have hfixed : (0x68 : Byte).toNat = 0x68 ∧ (0x01 : Byte).toNat = 0x01 := ⟨rfl, rfl⟩
      simp only [sumBytes, hfixed]
      omega
    rw [outboundFrame, compute, hsum]
  · have hframe : outboundFrame cc = [0x68, 0x01, cc] ++ [compute [0x68, 0x01, cc]] := rfl
    rw [hframe, sumBytes_append]
    simp only [sumBytes, compute_toNat]
    omega

/-- Settles O51: RADD gives 0 exactly for the negation of ACC, which is CHK, the checksum of the bytes ACC sums. -/
theorem addingTheChecksumTestsTheFrame : Obligations.AddingTheChecksumTestsTheFrame := by
  intro s bs b hb hacc
  have hchk := chk_eq_compute hacc
  refine ⟨hchk, _, exec_radd_free hb b, ?_⟩
  rw [zeroFlag_iff, addMod256_eq_zero_iff, ← hchk, chk]

end Sys2Proof.Machine
end

section
/-! PROOFS. How long a frame can take: degenerate limits (70_reset_and_hazards.md section 3), the ticks a frame has left
(60_exceptions.md R215), and POLL (30_encoding.md R78). -/

namespace Sys2Proof.Machine

/-! ### The ticks left -/

/-- The ticks left to a BODY phase at this TMR and IDX. In INTER_BYTE mode every byte still to be stored before the last
can restart the timer. -/
def bodyTicks (p : Config.Params) (tmr idx : Nat) : Nat :=
  match p.bodyMode with
  | .total => p.tBody.toNat - tmr + 1
  | .interByte => (p.bufCap - 1 - idx) * p.tBody.toNat + (p.tBody.toNat - tmr) + 1

/-- The ticks after which a frame in this state must have ended: those left to its phase, with the one of the cycle that
ends the phase where that cycle's tick is not counted, and those of the phases to come. -/
def ticksLeft (s : State) : Nat :=
  match s.st with
  | .idle => 0
  | .sync => s.tsync.toNat - s.tmr.toNat + (s.params.tSettle.toNat + 1) + s.params.tLen.toNat + bodyTicks s.params 0 2
  | .settle => s.params.tSettle.toNat - s.tmr.toNat + 1 + s.params.tLen.toNat + bodyTicks s.params 0 2
  | .lenwait => s.params.tLen.toNat - s.tmr.toNat + bodyTicks s.params 0 2
  | .body => bodyTicks s.params s.tmr.toNat s.idx.toNat
  | .done => 0
  | .error => 0
  | .unused7 => 0

section
variable {s : State}

theorem bodyTicks_pos (p : Config.Params) (tmr idx : Nat) : 0 < bodyTicks p tmr idx := by
  unfold bodyTicks
  split <;> omega

theorem ticksLeft_sync (hs : s.st = .sync) : ticksLeft s =
    s.tsync.toNat - s.tmr.toNat + (s.params.tSettle.toNat + 1) + s.params.tLen.toNat + bodyTicks s.params 0 2 := by
  simp [ticksLeft, hs]

theorem ticksLeft_settle (hs : s.st = .settle) : ticksLeft s =
    s.params.tSettle.toNat - s.tmr.toNat + 1 + s.params.tLen.toNat + bodyTicks s.params 0 2 := by
  simp [ticksLeft, hs]

theorem ticksLeft_lenwait (hs : s.st = .lenwait) :
    ticksLeft s = s.params.tLen.toNat - s.tmr.toNat + bodyTicks s.params 0 2 := by
  simp [ticksLeft, hs]

theorem ticksLeft_body (hs : s.st = .body) : ticksLeft s = bodyTicks s.params s.tmr.toNat s.idx.toNat := by
  simp [ticksLeft, hs]

theorem ticksLeft_pos (hb : busy s = true) : 0 < ticksLeft s := by
  have hbody := bodyTicks_pos s.params
  obtain hs | hs | hs | hs := (busy_iff s).mp hb
  · rw [ticksLeft_sync hs]; omega
  · rw [ticksLeft_settle hs]; omega
  · have := hbody 0 2
    rw [ticksLeft_lenwait hs]; omega
  · rw [ticksLeft_body hs]; exact hbody _ _

/-- R215's bound covers every frame from the start of SYNC on. -/
theorem ticksLeft_le_frameTickBound (hwf : s.params.wf) (hs : s.st = .sync) : ticksLeft s ≤ frameTickBound s := by
  rw [ticksLeft_sync hs]
  unfold frameTickBound bodyTicks
  cases s.params.bodyMode with
  | total => simp only; omega
  | interByte =>
    obtain ⟨k, hk⟩ := Nat.exists_eq_add_of_le hwf.1
    have hlast : s.params.bufCap - 1 - 2 = k + 1 := by omega
    have hall : s.params.bufCap - 2 = k + 2 := by omega
    have hsum : (k + 2) * (s.params.tBody.toNat + 1) =
        (k + 1) * s.params.tBody.toNat + s.params.tBody.toNat + (k + 2) := by
      ring
    simp only [hlast, hall, hsum]
    omega

/-- Below its limit a timer does not saturate. -/
theorem tinc_toNat_of_lt {t l : Half} (h : t < l) (k : Bool) : (tinc k t).toNat = t.toNat + k.toNat := by
  have hlt : t.toNat + 1 ≤ 0xFFFF := by bv_omega
  cases k <;> simp [tinc_toNat, hlt]

/-- A byte stored before the last counts the tick, or gives the timer back to the bytes still to come. -/
theorem bodyTicks_storeBodyByte (ht : s.tmr < s.params.tBody) (hi : s.idx.toNat + 1 < s.params.bufCap) (c : Inputs)
    (n : State) : bodyTicks s.params (storeBodyByte c s n).tmr.toNat (s.idx.toNat + 1) + c.tick.toNat ≤
      bodyTicks s.params s.tmr.toNat s.idx.toNat := by
  have hk := c.tick.toNat_le
  have hlt := BitVec.lt_def.mp ht
  cases hm : s.params.bodyMode with
  | total =>
    simp only [bodyTicks, storeBodyByte_tmr, hm, tinc_toNat_of_lt ht]
    omega
  | interByte =>
    obtain ⟨m, hm'⟩ : ∃ m, s.params.bufCap - 1 - s.idx.toNat = m + 1 :=
      ⟨s.params.bufCap - 1 - s.idx.toNat - 1, by omega⟩
    have hnext : s.params.bufCap - 1 - (s.idx.toNat + 1) = m := by omega
    simp only [bodyTicks, storeBodyByte_tmr, hm, hm', hnext, Nat.succ_mul]
    omega

/-- A cycle that only counts its tick, below the limit of its phase, takes that tick from those left. -/
theorem ticksLeft_countTick (hb : busy s = true) (hbelow : expired s = false) (k : Bool) :
    ticksLeft (countTick k s (afterCommand s)) + k.toNat ≤ ticksLeft s := by
  have hk := k.toNat_le
  obtain hs | hs | hs | hs := (busy_iff s).mp hb
  · have ht : s.tmr < s.tsync := by simpa [expired_sync hs] using hbelow
    have hlt := BitVec.lt_def.mp ht
    rw [ticksLeft_sync hs, ticksLeft_sync (by simpa using hs)]
    simp only [countTick_tmr, countTick_tsync, countTick_params, withCommandFlags_tsync, withCommandFlags_params,
      tinc_toNat_of_lt ht]
    omega
  · have ht : s.tmr < s.params.tSettle := by simpa [expired_settle hs] using hbelow
    have hlt := BitVec.lt_def.mp ht
    rw [ticksLeft_settle hs, ticksLeft_settle (by simpa using hs)]
    simp only [countTick_tmr, countTick_params, withCommandFlags_params, tinc_toNat_of_lt ht]
    omega
  · have ht : s.tmr < s.params.tLen := by simpa [expired_lenwait hs] using hbelow
    have hlt := BitVec.lt_def.mp ht
    rw [ticksLeft_lenwait hs, ticksLeft_lenwait (by simpa using hs)]
    simp only [countTick_tmr, countTick_params, withCommandFlags_params, tinc_toNat_of_lt ht]
    omega
  · have ht : s.tmr < s.params.tBody := by simpa [expired_body hs] using hbelow
    have hlt := BitVec.lt_def.mp ht
    rw [ticksLeft_body hs, ticksLeft_body (by simpa using hs)]
    simp only [countTick_tmr, countTick_params, countTick_idx, withCommandFlags_params, withCommandFlags_idx,
      tinc_toNat_of_lt ht, bodyTicks]
    split <;> omega

/-- Every cycle of a frame ends it, or takes its tick from those left. -/
theorem FrameCycle.finished_or_ticksLeft {n : State} (hc : FrameCycle s n) (h : Inv s) :
    finished n = true ∨ busy n = true ∧ ticksLeft n + (currentInputs s).tick.toNat ≤ ticksLeft s := by
  have hk := (currentInputs s).tick.toNat_le
  have hstay (hb : busy s = true) (he : expired s = false) :
      busy (countTick (currentInputs s).tick s (afterCommand s)) = true ∧
        ticksLeft (countTick (currentInputs s).tick s (afterCommand s)) + (currentInputs s).tick.toNat ≤ ticksLeft s :=
    ⟨by simpa [busy] using hb, ticksLeft_countTick hb he _⟩
  cases hc with
  | syncTimeout | lengthTimeout | invalidLength | shortRead | checksum => exact .inl rfl
  | sentinel hs ht hf hd =>
    have hlt := BitVec.lt_def.mp ht
    refine .inr ⟨rfl, ?_⟩
    rw [ticksLeft_sync hs, ticksLeft_settle (acceptSentinel_st s _)]
    simp only [acceptSentinel_tmr, acceptSentinel_params, withCommandFlags_params]
    omega
  | settleEnd hs ht hf =>
    refine .inr ⟨rfl, ?_⟩
    rw [ticksLeft_settle hs, ticksLeft_lenwait rfl]
    simp only [withCommandFlags_params]
    omega
  | validLength hs ht hf hl =>
    have hlt := BitVec.lt_def.mp ht
    refine .inr ⟨rfl, ?_⟩
    rw [ticksLeft_lenwait hs, ticksLeft_body (acceptLength_st _ s _)]
    have hstart : bodyTicks s.params (0 : Half).toNat (2 : Index).toNat = bodyTicks s.params 0 2 := rfl
    simp only [acceptLength_tmr, acceptLength_idx, acceptLength_params, withCommandFlags_params, hstart]
    omega
  | bodyByte hs ht hf hi =>
    have hfits := ((inv_iff_of_body hs).mp h).fits
    refine .inr ⟨by simp [busy, hs, St.isBusy], ?_⟩
    rw [ticksLeft_body hs, ticksLeft_body (by simpa using hs)]
    rw [storeBodyByte_idx, storeBodyByte_params, withCommandFlags_params, idx_succ_toNat hi.le]
    exact bodyTicks_storeBodyByte ht (by omega) _ _
  | syncWait hs ht hd => exact .inr (hstay (by simp [busy, hs, St.isBusy]) (expired_sync_of_lt hs ht))
  | settleWait hs ht hf => exact .inr (hstay (by simp [busy, hs, St.isBusy]) (by simpa [expired_settle hs] using ht))
  | lengthWait hs ht hf => exact .inr (hstay (by simp [busy, hs, St.isBusy]) (expired_lenwait_of_lt hs ht))
  | pastFrame hs ht hf hi => exact .inr (hstay (by simp [busy, hs, St.isBusy]) (expired_body_of_lt hs ht))
  | bodyWait hs ht hf => exact .inr (hstay (by simp [busy, hs, St.isBusy]) (expired_body_of_lt hs ht))

/-- The frame has ended, or is under way within the invariants with at most `n` ticks left. -/
def EndsWithin (n : Nat) (s : State) : Prop := finished s = true ∨ (busy s = true ∧ Inv s) ∧ ticksLeft s ≤ n

/-- From the start of SYNC a frame ends within R215's bound. -/
theorem endsWithin_of_sync {n : Nat} (h : Inv s) (hs : s.st = .sync) (hbound : frameTickBound s ≤ n) : EndsWithin n s :=
  .inr ⟨⟨(busy_iff s).mpr (.inl hs), h⟩, (ticksLeft_le_frameTickBound h.1.1 hs).trans hbound⟩

/-- A cycle of a frame uses up its tick. -/
theorem step_endsWithin {n : Nat} (h : Inv s) (hb : busy s = true) (hr : (currentInputs s).rst = false)
    (hleft : ticksLeft s ≤ (currentInputs s).tick.toNat + n) :
    ∃ t, step s = .next t ∧ t.inputs = s.inputs.tail ∧ EndsWithin n t := by
  obtain ⟨m, hstep, hc⟩ := exists_frameCycle hr hb
  refine ⟨_, hstep, rfl, ?_⟩
  obtain hfin | ⟨hbusy, htick⟩ := hc.finished_or_ticksLeft h
  · exact .inl hfin
  · have hless : ticksLeft m ≤ n := by omega
    exact .inr ⟨⟨hbusy, (inv_endOfCycle s m).mpr (hc.inv h)⟩, hless⟩

end

theorem tickCount_cons (c : Inputs) (cs : List Inputs) : tickCount (c :: cs) = c.tick.toNat + tickCount cs := by
  cases hk : c.tick <;> simp [tickCount, hk, Nat.add_comm]

/-- A frame is finished by the time the ticks left to it are used up. -/
theorem run_reaches_finished (rest : List Inputs) : ∀ (cs : List Inputs) (s : State), EndsWithin (tickCount cs) s →
    s.inputs = cs ++ rest → (∀ c ∈ cs, c.rst = false) →
    ∃ (k : Nat) (t : State), k ≤ cs.length ∧ Host.Core.run Sys2Proof.core k s = .next t ∧ finished t = true
  | _, s, .inl hfin, _, _ => ⟨0, s, Nat.zero_le _, rfl, hfin⟩
  | [], _, .inr ⟨⟨hb, _⟩, hleft⟩, _, _ => absurd (ticksLeft_pos hb) (Nat.not_lt.mpr hleft)
  | c :: cs, s, .inr ⟨⟨hb, h⟩, hleft⟩, hin, hrst => by
    have hcur := currentInputs_cons hin
    rw [List.forall_mem_cons] at hrst
    rw [tickCount_cons] at hleft
    obtain ⟨u, hstep, hinu, hu⟩ := step_endsWithin h hb (hcur ▸ hrst.1) (hcur ▸ hleft)
    obtain ⟨k, t, hk, hrun, hfin⟩ := run_reaches_finished rest cs u hu (by rw [hinu, hin]; rfl) hrst.2
    exact ⟨k + 1, t, Nat.succ_le_succ hk, (run_succ hstep k).trans hrun, hfin⟩

/-! ### POLL -/

/-- The state after one cycle of POLL. -/
def pollCycle (s : State) : State :=
  endOfCycle (pollNext s) (receiveOrReset (currentInputs (pollNext s)) (pollNext s) (commandResult (pollNext s)))

theorem step_pollNext (s : State) : step (pollNext s) = .next (pollCycle s) := step_eq (pollNext s)

theorem pollCycle_rdData (s : State) : (pollCycle s).out.rdData = status s := readPort_status (pollNext s)

theorem pollRun_step (fuel : Nat) (s : State) : pollRun (fuel + 1) s =
    if finished s then some (1, pollCycle s) else (pollRun fuel (pollCycle s)).map (fun r => (r.1 + 1, r.2)) :=
  pollRun_succ (step_pollNext s)

/-- Where POLL ends: after the first READ of a finished state. -/
theorem pollRun_eq_some {fuel n : Nat} {s t : State} (h : pollRun fuel s = some (n, t)) :
    1 ≤ n ∧ n ≤ fuel ∧ pollCycle^[n] s = t ∧ ∀ k < n, (finished (pollCycle^[k] s) = true ↔ k + 1 = n) := by
  induction fuel generalizing s n with
  | zero => cases h
  | succ fuel ih =>
    rw [pollRun_step] at h
    split at h
    next hfin =>
      cases h
      refine ⟨le_rfl, by omega, rfl, fun k hk => ?_⟩
      obtain rfl : k = 0 := by omega
      simpa using hfin
    next hfin =>
      obtain ⟨⟨m, u⟩, hrun, heq⟩ := Option.map_eq_some_iff.mp h
      cases heq
      obtain ⟨hpos, hle, hend, hfirst⟩ := ih hrun
      refine ⟨by omega, by omega, hend, fun k hk => ?_⟩
      cases k with
      | zero => exact iff_of_false hfin (by omega)
      | succ k => exact (hfirst k (by omega)).trans (by omega)

/-- While POLL goes on, no state it reads is finished. -/
theorem pollRun_eq_none {fuel : Nat} {s : State} (h : pollRun fuel s = none) :
    ∀ k < fuel, finished (pollCycle^[k] s) = false := by
  induction fuel generalizing s with
  | zero => exact fun k hk => absurd hk (Nat.not_lt_zero k)
  | succ fuel ih =>
    rw [pollRun_step] at h
    split at h
    next => cases h
    next hfin =>
      intro k hk
      cases k with
      | zero => exact Bool.eq_false_iff.mpr hfin
      | succ k => exact ih (Option.map_eq_none_iff.mp h) k (by omega)

/-- The cycle of a POLL has the reset and the tick of the cycle it stands in. -/
theorem currentInputs_pollNext (s : State) :
    (currentInputs (pollNext s)).rst = (currentInputs s).rst ∧
      (currentInputs (pollNext s)).tick = (currentInputs s).tick :=
  ⟨rfl, rfl⟩

/-- POLL ends by the cycle after the one that uses up the ticks left to the frame. -/
theorem pollRun_ends (rest : List Inputs) : ∀ (cs : List Inputs) (fuel : Nat) (s : State),
    EndsWithin (tickCount cs) s → s.inputs = cs ++ rest → (∀ c ∈ cs, c.rst = false) → cs.length < fuel →
    ∃ n t, pollRun fuel s = some (n, t)
  | _, 0, _, _, _, _, hfuel => absurd hfuel (Nat.not_lt_zero _)
  | _, _ + 1, s, .inl hfin, _, _, _ => ⟨1, pollCycle s, by rw [pollRun_step, if_pos hfin]⟩
  | [], _, _, .inr ⟨⟨hb, _⟩, hleft⟩, _, _, _ => absurd (ticksLeft_pos hb) (Nat.not_lt.mpr hleft)
  | c :: cs, fuel + 1, s, .inr ⟨⟨hb, h⟩, hleft⟩, hin, hrst, hfuel => by
    have hcur := currentInputs_cons hin
    obtain ⟨hrstSame, htickSame⟩ := currentInputs_pollNext s
    rw [List.forall_mem_cons] at hrst
    rw [tickCount_cons] at hleft
    obtain ⟨u, hstep, hinu, hu⟩ := step_endsWithin (s := pollNext s) h hb (hrstSame.trans (hcur ▸ hrst.1))
      (by rw [htickSame, hcur]; exact hleft)
    obtain rfl : pollCycle s = u := Host.Outcome.next.inj ((step_pollNext s).symm.trans hstep)
    obtain ⟨n, t, hrun⟩ := pollRun_ends rest cs fuel (pollCycle s) hu (by rw [hinu, pollNext, hin]; rfl) hrst.2
      (Nat.lt_of_succ_lt_succ hfuel)
    rw [pollRun_step, hrun]
    split
    · exact ⟨_, _, rfl⟩
    · exact ⟨_, _, rfl⟩

/-! ### The obligations -/

/-- Settles O39: a limit of 0 is reached at once, and the length check is `lenok_iff`'s. -/
theorem degenerateSettingsFailAtOnce : Obligations.DegenerateSettingsFailAtOnce := by
  obtain ⟨-, -, -, -, hmaxpay, -⟩ := maxpaySetsTheCapacity
  refine ⟨fun s c d rest hin hb htsync hr hstart hd => ?_, fun s hr hs hlimit => ?_, fun s hr hs hlimit hidx => ?_,
    hmaxpay, fun p m l hcap => ?_⟩
  · have hcur := currentInputs_cons hin
    have hfirst := step_free (hcur ▸ hr) hb
    rw [commandResult_of_start hb (hcur ▸ hstart)] at hfirst
    have hcur' : currentInputs (endOfCycle s (startFrame s)) = d :=
      currentInputs_cons (cs := rest) (by simp [hin])
    have hsecond := step_sync_of_expired (s := endOfCycle s (startFrame s)) (hcur' ▸ hd) rfl
      (expired_sync_of_le rfl (by simp [htsync]))
    exact ⟨_, (run_succ hfirst 1).trans (run_succ hsecond 0), rfl, rfl⟩
  · exact ⟨_, step_lenwait_of_expired hr hs (expired_lenwait_of_le hs (hlimit ▸ zero_le_half _)), rfl, rfl⟩
  · exact ⟨_, step_body_of_expired hr hs (expired_body_of_le hs (hlimit ▸ zero_le_half _)), rfl, rfl,
      by simpa using hidx⟩
  · have hone : (1 : Byte).toNat = 1 := rfl
    rw [lenok_iff, ← BitVec.toNat_inj, hone, hcap]
    omega

/-- Settles O55: the bound covers the ticks left at the start of SYNC. -/
theorem everyFrameEndsWithinItsTicks : Obligations.EveryFrameEndsWithinItsTicks := fun s cs rest h hs hin hrst hbound =>
  run_reaches_finished rest cs s (endsWithin_of_sync h hs hbound) hin hrst

/-- Settles O57: the states POLL reads are the iterates of its cycle, and it ends where the frame does. -/
theorem pollEndsWithTheFirstReadThatShowsFin : Obligations.PollEndsWithTheFirstReadThatShowsFin := by
  have hstep (s : State) (k : Nat) : step (pollNext (pollCycle^[k] s)) = .next (pollCycle^[k + 1] s) := by
    rw [step_pollNext, Function.iterate_succ_apply']
  refine ⟨fun fuel n s t h => ?_, fun fuel s h => ?_, fun fuel s cs rest h hs hin hrst hbound hfuel => ?_⟩
  · obtain ⟨hpos, hle, hend, hfirst⟩ := pollRun_eq_some h
    refine ⟨hpos, hle, (pollCycle^[·] s), rfl, hend, fun k hk => ⟨hstep s k, ?_, hfirst k hk⟩⟩
    simp only [Function.iterate_succ_apply', pollCycle_rdData]
  · exact ⟨(pollCycle^[·] s), rfl, fun k hk => ⟨hstep s k, pollRun_eq_none h k hk⟩⟩
  · exact pollRun_ends rest cs fuel s (endsWithin_of_sync h hs hbound) hin hrst hfuel

end Sys2Proof.Machine
end

section
/-! PROOFS. The block with a transport that keeps its contract (60_exceptions.md R222; log 13): the bytes it takes, and
what a whole frame makes of them. -/

namespace Sys2Proof.Machine

/-! ### One cycle of the pair -/

/-- The block with the inputs of the coming cycle: what the environment chooses, and the transport's oldest byte. -/
def offered (e : EnvCycle) (l : Line) : State := { l.block with inputs := [lineInputs e l.pending] }

@[simp] theorem offered_st (e : EnvCycle) (l : Line) : (offered e l).st = l.block.st := rfl
@[simp] theorem offered_len (e : EnvCycle) (l : Line) : (offered e l).len = l.block.len := rfl
@[simp] theorem offered_tsync (e : EnvCycle) (l : Line) : (offered e l).tsync = l.block.tsync := rfl

/-- The pair takes a byte on a fire. -/
abbrev lineFire (e : EnvCycle) (l : Line) : Bool := fire (lineInputs e l.pending) l.block

section
variable {e : EnvCycle} {l : Line} {t : State}

theorem currentInputs_offered (e : EnvCycle) (l : Line) : currentInputs (offered e l) = lineInputs e l.pending := rfl

theorem inv_offered (e : EnvCycle) (l : Line) : Inv (offered e l) ↔ Inv l.block := Iff.rfl

/-- What the pair reads as `rx_ready` is the output of the cycle itself. -/
theorem lineStep_eq (h : step (offered e l) = .next t) : lineStep e l =
    if lineFire e l then
      some { block := t, pending := l.pending.tail ++ e.arrivals, taken := l.taken ++ l.pending.take 1 }
    else some { block := t, pending := l.pending ++ e.arrivals, taken := l.taken } := by
  have hready : t.out.rxReady = rxReady (lineInputs e l.pending).rst l.block := by
    rw [step_eq] at h
    cases h
    rfl
  have hstep : step { l.block with inputs := [lineInputs e l.pending] } = .next t := h
  simp only [lineStep, hstep, hready]
  rfl

/-- On a fire there is an oldest byte, and it is the one on `rx_data`. -/
theorem pending_of_fire (hf : lineFire e l = true) :
    l.pending = (lineInputs e l.pending).rxData :: l.pending.tail := by
  cases hp : l.pending with
  | nil => simp [lineFire, fire, lineInputs, hp] at hf
  | cons b p => rfl

theorem lineStep_of_fire (h : step (offered e l) = .next t) (hf : lineFire e l = true) :
    lineStep e l = some { block := t, pending := l.pending.tail ++ e.arrivals,
                          taken := l.taken ++ [(lineInputs e l.pending).rxData] } := by
  have hhead : l.pending.take 1 = [(lineInputs e l.pending).rxData] := by
    rw [pending_of_fire hf]
    rfl
  rw [lineStep_eq h, if_pos hf, hhead]

theorem lineStep_of_no_fire (h : step (offered e l) = .next t) (hf : lineFire e l = false) :
    lineStep e l = some { block := t, pending := l.pending ++ e.arrivals, taken := l.taken } := by
  rw [lineStep_eq h, if_neg (by simp [hf])]

end

/-- Every cycle of the pair completes, is the block's step, and takes exactly the oldest byte on a fire. -/
theorem exists_lineStep (e : EnvCycle) (l : Line) : ∃ m, lineStep e l = some m ∧ step (offered e l) = .next m.block ∧
    ((lineFire e l = true ∧ ∃ b, (lineInputs e l.pending).rxData = b ∧ l.pending = b :: l.pending.tail ∧
        m.taken = l.taken ++ [b] ∧ m.pending = l.pending.tail ++ e.arrivals) ∨
     (lineFire e l = false ∧ m.taken = l.taken ∧ m.pending = l.pending ++ e.arrivals)) := by
  have hstep := step_eq (offered e l)
  cases hf : lineFire e l with
  | true => exact ⟨_, lineStep_of_fire hstep hf, hstep, .inl ⟨rfl, _, rfl, pending_of_fire hf, rfl, rfl⟩⟩
  | false => exact ⟨_, lineStep_of_no_fire hstep hf, hstep, .inr ⟨rfl, rfl, rfl⟩⟩

/-- No byte is lost or repeated over a run of the pair. -/
theorem exists_lineRun (es : List EnvCycle) (l : Line) : ∃ m, lineRun es l = some m ∧
    m.taken ++ m.pending = l.taken ++ l.pending ++ (es.map EnvCycle.arrivals).flatten := by
  induction es generalizing l with
  | nil => exact ⟨l, rfl, by simp⟩
  | cons e es ih =>
    obtain ⟨k, hk, -, hbytes⟩ := exists_lineStep e l
    obtain ⟨m, hm, hall⟩ := ih k
    refine ⟨m, by rw [lineRun, hk]; exact hm, hall.trans ?_⟩
    obtain ⟨-, b, -, hp, htaken, hpending⟩ | ⟨-, htaken, hpending⟩ := hbytes
    · rw [htaken, hpending, hp]
      simp
    · rw [htaken, hpending]
      simp

/-- Each phase uses the byte on `rx_data` in a fire cycle. -/
theorem FrameCycle.uses_byte {s n : State} (hc : FrameCycle s n) (hf : fire (currentInputs s) s = true) :
    (s.st = .sync → (n.st = .settle ↔ (currentInputs s).rxData = 0x40)) ∧
    (s.st = .lenwait → n.len = (currentInputs s).rxData) ∧
    (s.st = .body → Inv s → bufRead n s.idx.toNat = (currentInputs s).rxData) := by
  have hstored (hs : s.st = .body) (h : Inv s) :
      (storedBuffer (afterCommand s) s.idx.toNat (currentInputs s).rxData).read s.idx.toNat =
        (currentInputs s).rxData := by
    have hbody := (inv_iff_of_body hs).mp h
    have hhigh := hbody.idxHigh
    have hfits := hbody.fits
    rw [storedBuffer_afterCommand_read hbody.bufferOk (by omega), if_pos rfl]
  cases hc with
  | sentinel hs ht hf' hd => simp [hs, hd]
  | syncWait hs ht hd => simpa [hs] using hd hf
  | validLength hs ht hf' hl => simp [hs]
  | invalidLength hs ht hf' hl => simp [hs]
  | bodyByte hs ht hf' hi | checksum hs ht hf' hi => simpa [hs, bufRead] using hstored hs
  | pastFrame hs ht hf' hi =>
    refine ⟨by simp [hs], by simp [hs], fun _ h => ?_⟩
    exact absurd ((inv_iff_of_body hs).mp h).idxHigh (by omega)
  | syncTimeout hs ht hf' | settleEnd hs ht hf' | settleWait hs ht hf' | lengthTimeout hs ht hf'
  | lengthWait hs ht hf' | shortRead hs ht hf' | bodyWait hs ht hf' => exact absurd hf (by simp [hf'])

/-! ### The bytes a frame has taken -/

/-- The bytes of the frame in BUF. -/
def stored (s : State) : List Byte := s.buf.firstBytes s.idx.toNat

/-- The bytes a frame has taken since its garbage: those in BUF, and after INVALID_LENGTH the length byte, which only
LEN holds. -/
def frameBytes (s : State) : List Byte := stored s ++ if s.err = .invalidLength then [s.len] else []

section
variable {s n : State}

theorem stored_of_idx_zero (h : s.idx = 0) : stored s = [] := by
  simp [stored, h, Memory.firstBytes_zero]

theorem stored_of_head {l : Half} (h : HeadFacts l s) : stored s = [0x40] := by
  have hsent := h.sentinel
  rw [bufRead] at hsent
  simp [stored, h.idx, Memory.firstBytes_one, hsent]

theorem stored_acceptSentinel (h : SyncFacts s) : stored (acceptSentinel s (afterCommand s)) = stored s ++ [0x40] := by
  have hcap : 0 < s.params.bufCap := by have := h.bufferOk.1.1; omega
  have hstore := firstBytes_store h.bufferOk hcap sentinel
  simpa [stored, h.idx, sentinel] using hstore

theorem stored_acceptLength {l : Half} (h : HeadFacts l s) (b : Byte) :
    stored (acceptLength b s (afterCommand s)) = stored s ++ [b] := by
  have hcap : 1 < s.params.bufCap := by have := h.bufferOk.1.1; omega
  have hstore := firstBytes_store h.bufferOk hcap b
  simpa [stored, h.idx] using hstore

/-- A byte stored in BODY, the checksum byte too, is the next byte of the frame. -/
theorem stored_of_body_store (h : BodyFacts s) {v : Byte} (hidx : n.idx = s.idx + 1)
    (hbuf : n.buf = storedBuffer (afterCommand s) s.idx.toNat v) : stored n = stored s ++ [v] := by
  have hhigh := h.idxHigh
  have hfits := h.fits
  rw [stored, hidx, hbuf, idx_succ_toNat hhigh, firstBytes_store h.bufferOk (by omega)]
  rfl

theorem frameBytes_of_valid (h : n.err ≠ .invalidLength) : frameBytes n = stored n := by
  simp [frameBytes, h]

/-- What a cycle of a frame adds to the bytes taken: nothing without a fire, the byte taken on one, unless that byte is
garbage. -/
theorem FrameCycle.frameBytes_cases (hc : FrameCycle s n) (h : Inv s) :
    (fire (currentInputs s) s = false ∧ frameBytes n = frameBytes s) ∨
    (fire (currentInputs s) s = true ∧ frameBytes n = frameBytes s ++ [(currentInputs s).rxData]) ∨
    (fire (currentInputs s) s = true ∧ (currentInputs s).rxData ≠ 0x40 ∧ frameBytes n = [] ∧ frameBytes s = []) := by
  have hsame (hf : fire (currentInputs s) s = false) (hs : s.err = .none) (hn : n.err ≠ .invalidLength) :
      fire (currentInputs s) s = false ∧ frameBytes n = frameBytes s := by
    obtain ⟨-, hidx, -, hbuf⟩ := hc.keeps_bytes_of_no_fire hf
    refine ⟨hf, ?_⟩
    rw [frameBytes_of_valid hn, frameBytes_of_valid (by simp [hs]), stored, stored, hidx, hbuf]
  have hnext {v : Byte} (hs : s.err = .none) (hn : n.err = s.err) (hstore : stored n = stored s ++ [v]) :
      frameBytes n = frameBytes s ++ [v] := by
    rw [frameBytes_of_valid (by simp [hn, hs]), frameBytes_of_valid (by simp [hs]), hstore]
  have herr (hs : s.st ≠ .error) : s.err = .none := err_of_invError h.2.2.1 hs
  cases hc with
  | syncTimeout hs ht hf | lengthTimeout hs ht hf | shortRead hs ht hf =>
    exact .inl (hsame hf (herr (by simp [hs])) (by simp))
  | settleEnd hs ht hf | settleWait hs ht hf | lengthWait hs ht hf | bodyWait hs ht hf =>
    have hnone := herr (by simp [hs])
    exact .inl (hsame hf hnone (by simp [hnone]))
  | sentinel hs ht hf hd =>
    refine .inr (.inl ⟨hf, ?_⟩)
    rw [hd]
    exact hnext (herr (by simp [hs])) (by simp) (stored_acceptSentinel ((inv_iff_of_sync hs).mp h))
  | syncWait hs ht hd =>
    have hfacts := (inv_iff_of_sync hs).mp h
    cases hf : fire (currentInputs s) s with
    | false => exact .inl (hf ▸ hsame hf hfacts.err (by simp [hfacts.err]))
    | true =>
      refine .inr (.inr ⟨rfl, hd hf, ?_, ?_⟩)
      · rw [frameBytes_of_valid (by simp [hfacts.err]), stored_of_idx_zero (by simpa using hfacts.idx)]
      · rw [frameBytes_of_valid (by simp [hfacts.err]), stored_of_idx_zero hfacts.idx]
  | validLength hs ht hf hl =>
    have hfacts := (inv_iff_of_lenwait hs).mp h
    exact .inr (.inl ⟨hf, hnext hfacts.err (by simp) (stored_acceptLength hfacts _)⟩)
  | invalidLength hs ht hf hl =>
    have hfacts := (inv_iff_of_lenwait hs).mp h
    refine .inr (.inl ⟨hf, ?_⟩)
    simp [frameBytes, stored, hfacts.err]
  | bodyByte hs ht hf hi =>
    have hfacts := (inv_iff_of_body hs).mp h
    exact .inr (.inl ⟨hf, hnext hfacts.err (by simp) (stored_of_body_store hfacts (by simp) (by simp))⟩)
  | checksum hs ht hf hi =>
    have hfacts := (inv_iff_of_body hs).mp h
    exact .inr (.inl ⟨hf, hnext hfacts.err (by simp) (stored_of_body_store hfacts (by simp) (by simp))⟩)
  | pastFrame hs ht hf hi => exact absurd ((inv_iff_of_body hs).mp h).idxHigh (by omega)

theorem BodyFacts.lenok (h : BodyFacts s) : lenok s.params s.maxpay s.len = true :=
  (lenok_iff _ _ _).mpr ⟨h.lenPos, h.fits, h.payloadFits⟩

/-- How a frame ended, and what the block holds of it. -/
inductive FrameEnd (n : State) : Prop
  | syncTimeout (hst : n.st = .error) (herr : n.err = .syncTimeout) (hbytes : stored n = [])
  | lengthTimeout (hst : n.st = .error) (herr : n.err = .lengthTimeout) (hbytes : stored n = [0x40])
  | invalidLength (hst : n.st = .error) (herr : n.err = .invalidLength) (hbytes : stored n = [0x40])
      (hlen : lenok n.params n.maxpay n.len = false)
  | shortRead (hst : n.st = .error) (herr : n.err = .shortRead) (hsent : bufRead n 0 = 0x40)
      (hlength : bufRead n 1 = n.len) (hlen : lenok n.params n.maxpay n.len = true)
      (hidx : n.idx.toNat < n.len.toNat + 3)
  | done (hst : n.st = .done) (herr : n.err = .none) (hsent : bufRead n 0 = 0x40) (hlength : bufRead n 1 = n.len)
      (hlen : lenok n.params n.maxpay n.len = true) (hidx : n.idx.toNat = n.len.toNat + 3)
      (hsum : n.acc.toNat = sumBytes (n.buf.firstBytes (n.len.toNat + 2)) % 256)

/-- A cycle that finishes a frame ends it in one of the five ways. -/
theorem FrameCycle.frameEnd (hc : FrameCycle s n) (h : Inv s) (hfin : finished n = true) :
    FrameEnd (endOfCycle s n) := by
  have hstated := hc.stated h
  have hinv := hc.inv h
  rw [finished_iff] at hfin
  cases hc with
  | syncTimeout hs ht hf =>
    exact .syncTimeout rfl rfl (stored_of_idx_zero (by simpa using ((inv_iff_of_sync hs).mp h).idx))
  | lengthTimeout hs ht hf =>
    exact .lengthTimeout rfl rfl (by simpa [stored] using stored_of_head ((inv_iff_of_lenwait hs).mp h))
  | invalidLength hs ht hf hl =>
    exact .invalidLength rfl rfl (by simpa [stored] using stored_of_head ((inv_iff_of_lenwait hs).mp h))
      (by simpa using hl)
  | shortRead hs ht hf =>
    have hbody := (inv_iff_of_body hs).mp h
    have hhigh := hbody.idxHigh
    have hlt : s.idx.toNat < s.len.toNat + 3 := by omega
    exact .shortRead rfl rfl (by simpa [bufRead] using hbody.sentinel) (by simpa [bufRead] using hbody.length)
      (by simpa using hbody.lenok) (by simpa using hlt)
  | checksum hs ht hf hi =>
    have hbody := (inv_iff_of_body hs).mp h
    have hdone := (inv_iff_of_done (storeChecksum_st _ s _)).mp hinv
    have hsum := hstated.2 (by simp)
    rw [hdone.idx, min_eq_right (by omega)] at hsum
    exact .done rfl hdone.err hdone.sentinel hdone.length (by simpa using hbody.lenok) hdone.idx hsum
  | sentinel | settleEnd | validLength => simp at hfin
  | syncWait hs | settleWait hs | lengthWait hs | pastFrame hs | bodyWait hs | bodyByte hs => simp [hs] at hfin

end

/-- The bytes a line has taken are garbage without the sentinel, and then the bytes of the frame. -/
def TakenIsGarbageAndFrame (l : Line) : Prop := ∃ g : List Byte, (0x40 : Byte) ∉ g ∧ l.taken = g ++ frameBytes l.block

section
variable {e : EnvCycle} {l m : Line}

/-- A cycle of the pair is a cycle of the block's frame. -/
theorem lineStep_frameCycle (hb : busy l.block = true) (hr : e.rst = false) (hm : lineStep e l = some m) :
    ∃ n, FrameCycle (offered e l) n ∧ m.block = endOfCycle (offered e l) n := by
  obtain ⟨n, hstep, hc⟩ := exists_frameCycle (s := offered e l) hr hb
  obtain ⟨k, hk, hblock, -⟩ := exists_lineStep e l
  obtain rfl : k = m := Option.some.inj (hk.symm.trans hm)
  exact ⟨n, hc, Host.Outcome.next.inj (hblock.symm.trans hstep)⟩

theorem lineStep_keeps_taken (h : Inv l.block) (hb : busy l.block = true) (hr : e.rst = false)
    (hm : lineStep e l = some m) (ht : TakenIsGarbageAndFrame l) : TakenIsGarbageAndFrame m := by
  obtain ⟨n, hc, hn⟩ := lineStep_frameCycle hb hr hm
  obtain ⟨k, hk, -, hbytes⟩ := exists_lineStep e l
  obtain rfl : k = m := Option.some.inj (hk.symm.trans hm)
  obtain ⟨g, hg, htaken⟩ := ht
  have hn' : frameBytes k.block = frameBytes n := by rw [hn]; rfl
  have hl : frameBytes (offered e l) = frameBytes l.block := rfl
  have hframe := hc.frameBytes_cases h
  rw [currentInputs_offered, ← hn', hl] at hframe
  obtain ⟨hf, b, hb, -, hkt, -⟩ | ⟨hf, hkt, -⟩ := hbytes
  · obtain ⟨hno, -⟩ | ⟨-, hadd⟩ | ⟨-, hne, hnone, hnone'⟩ := hframe
    · exact absurd (hno.symm.trans hf) (by simp)
    · exact ⟨g, hg, by rw [hkt, htaken, hadd, hb, List.append_assoc]⟩
    · refine ⟨g ++ [b], fun hmem => ?_, by rw [hkt, htaken, hnone, hnone']; simp⟩
      obtain hin | hin := List.mem_append.mp hmem
      · exact hg hin
      · exact hne (hb.trans (List.mem_singleton.mp hin).symm)
  · obtain ⟨-, hsame⟩ | ⟨hyes, -⟩ | ⟨hyes, -⟩ := hframe
    · exact ⟨g, hg, by rw [hkt, htaken, hsame]⟩
    · exact absurd (hyes.symm.trans hf) (by simp)
    · exact absurd (hyes.symm.trans hf) (by simp)

theorem lineStep_inv (h : Inv l.block) (hb : busy l.block = true) (hr : e.rst = false) (hm : lineStep e l = some m) :
    Inv m.block := by
  obtain ⟨n, hc, hn⟩ := lineStep_frameCycle hb hr hm
  rw [hn]
  exact (inv_endOfCycle _ n).mpr (hc.inv ((inv_offered e l).mpr h))

end

theorem lineRun_cons {e : EnvCycle} {l k : Line} (h : lineStep e l = some k) (es : List EnvCycle) :
    lineRun (e :: es) l = lineRun es k := by
  rw [lineRun, h]

/-- A run that ends in the first finished state ends in one of the five ways, with the bytes taken accounted for. -/
theorem lineRun_frameEnd (es : List EnvCycle) : ∀ l m : Line, Inv l.block → busy l.block = true →
    TakenIsGarbageAndFrame l → (∀ e ∈ es, e.rst = false) → lineRun es l = some m → finished m.block = true →
    (∀ k n, k < es.length → lineRun (es.take k) l = some n → busy n.block = true) →
    TakenIsGarbageAndFrame m ∧ FrameEnd m.block := by
  induction es with
  | nil =>
    intro l m _ hb _ _ hm hfin _
    cases hm
    rw [busy_iff] at hb
    rw [finished_iff] at hfin
    rcases hb with hs | hs | hs | hs <;> simp [hs] at hfin
  | cons e es ih =>
    intro l m h hb ht hrst hm hfin hfirst
    rw [List.forall_mem_cons] at hrst
    obtain ⟨k, hk, -⟩ := exists_lineStep e l
    have htk := lineStep_keeps_taken h hb hrst.1 hk ht
    rw [lineRun_cons hk] at hm
    cases es with
    | nil =>
      cases hm
      obtain ⟨n, hc, hn⟩ := lineStep_frameCycle hb hrst.1 hk
      refine ⟨htk, ?_⟩
      rw [hn] at hfin ⊢
      exact hc.frameEnd ((inv_offered e l).mpr h) hfin
    | cons e' es =>
      refine ih k m (lineStep_inv h hb hrst.1 hk) ?_ htk hrst.2 hm hfin fun j n hj hn => ?_
      · exact hfirst 1 k (by simp) (by rw [List.take_one, List.head?_cons, Option.toList_some, lineRun_cons hk]; rfl)
      · exact hfirst (j + 1) n (by simpa using hj) (by rw [List.take_succ_cons, lineRun_cons hk]; exact hn)

/-! ### The obligations -/

/-- Settles O52: each phase uses its byte on a fire, without one no byte has a part, and the pair takes its oldest. -/
theorem bytesAreTakenInOrder : Obligations.BytesAreTakenInOrder := by
  refine ⟨fun s c hf => ?_, fun s c b hf => step_setData_of_no_fire hf b, exists_lineStep, exists_lineRun⟩
  obtain ⟨n, hstep, hc⟩ := exists_frameCycle (s := withInputs s c) (rst_of_fire hf) (busy_of_fire hf)
  exact ⟨_, hstep, hc.uses_byte hf⟩

/-- Settles O53: the bytes taken are those of the frame behind its garbage, and each of the five ends says which those
are. -/
theorem frameOutcomeFollowsTheBytesTaken : Obligations.FrameOutcomeFollowsTheBytesTaken := by
  intro es l m h hs htaken hrst hm hfin hfirst
  have hsync := (inv_iff_of_sync hs).mp h
  have hstart : TakenIsGarbageAndFrame l :=
    ⟨[], by simp, by rw [htaken, frameBytes_of_valid (by simp [hsync.err]), stored_of_idx_zero hsync.idx]; rfl⟩
  obtain ⟨⟨g, hg, ht⟩, hend⟩ :=
    lineRun_frameEnd es l m h ((busy_iff _).mpr (.inl hs)) hstart hrst hm hfin hfirst
  refine ⟨g, hg, ?_⟩
  cases hend with
  | syncTimeout hst herr hbytes =>
    have hall : m.taken = g := by simpa [frameBytes, herr, hbytes] using ht
    exact .inl ⟨hst, herr, hall, by rw [hall]⟩
  | lengthTimeout hst herr hbytes =>
    have hall : m.taken = g ++ [0x40] := by simpa [frameBytes, herr, hbytes] using ht
    exact .inr (.inl ⟨hst, herr, hall, by rw [hall]; simp⟩)
  | invalidLength hst herr hbytes hlen =>
    have hall : m.taken = g ++ [0x40, m.block.len] := by simpa [frameBytes, herr, hbytes] using ht
    exact .inr (.inr (.inl ⟨hst, herr, hall, hlen, by rw [hall]; simp⟩))
  | shortRead hst herr hsent hlength hlen hidx =>
    have hall : m.taken = g ++ m.block.buf.firstBytes m.block.idx.toNat := by
      simpa [frameBytes, herr, stored] using ht
    exact .inr (.inr (.inr (.inl ⟨hst, herr, hall, hsent, hlength, hlen, hidx,
      by rw [hall, List.length_append, Memory.firstBytes_length]⟩)))
  | done hst herr hsent hlength hlen hidx hsum =>
    have hall : m.taken = g ++ m.block.buf.firstBytes (m.block.len.toNat + 3) := by
      rw [ht, frameBytes, if_neg (by simp [herr]), List.append_nil, stored, hidx]
    exact .inr (.inr (.inr (.inr ⟨hst, hall, hsent, hlength, hlen, hidx, hsum,
      by rw [hall, List.length_append, Memory.firstBytes_length, Nat.add_assoc]⟩)))

end Sys2Proof.Machine
end

section
/-! PROOFS. A frame offered back to back: the cycles of each phase, and the frame in DONE (41_frame_reader.md section 8,
70_reset_and_hazards.md section 4). -/

namespace Sys2Proof.Machine

/-! ### Runs of the pair within a frame -/

/-- What every run of the pair within a frame keeps: the invariants and the settings. -/
structure Reaches (es : List EnvCycle) (l m : Line) : Prop where
  run : lineRun es l = some m
  inv : Inv m.block
  params : m.block.params = l.block.params
  maxpay : m.block.maxpay = l.block.maxpay

theorem lineRun_append {es fs : List EnvCycle} {l k : Line} (h : lineRun es l = some k) :
    lineRun (es ++ fs) l = lineRun fs k := by
  induction es generalizing l with
  | nil =>
    cases h
    rfl
  | cons e es ih =>
    obtain ⟨j, hj, -⟩ := exists_lineStep e l
    rw [lineRun_cons hj] at h
    rw [List.cons_append, lineRun_cons hj, ih h]

theorem Reaches.trans {es fs : List EnvCycle} {l k m : Line} (h : Reaches es l k) (h' : Reaches fs k m) :
    Reaches (es ++ fs) l m :=
  ⟨(lineRun_append h.run).trans h'.run, h'.inv, h'.params.trans h.params, h'.maxpay.trans h.maxpay⟩

section
variable {e : EnvCycle} {l : Line} {n : State}

/-- One cycle of the pair, by what the receiver makes of the block in it. -/
theorem reaches_of_receive (h : Inv l.block) (hb : busy l.block = true) (hr : e.rst = false)
    (hn : receive (lineInputs e l.pending) (offered e l) (afterCommand (offered e l)) = n) :
    ∃ m, Reaches [e] l m ∧ m.block = endOfCycle (offered e l) n ∧
      m.pending = (if lineFire e l then l.pending.tail else l.pending) ++ e.arrivals := by
  have hstep : step (offered e l) = .next (endOfCycle (offered e l) n) := hn ▸ step_busy (s := offered e l) hr hb
  obtain ⟨m, hm, hblock, hbytes⟩ := exists_lineStep e l
  have heq : m.block = endOfCycle (offered e l) n := Host.Outcome.next.inj (hblock.symm.trans hstep)
  obtain ⟨n', hc, hn'⟩ := lineStep_frameCycle hb hr hm
  obtain ⟨-, hmaxpay, hparams⟩ := hc.keeps_settings
  refine ⟨m, ⟨by rw [lineRun_cons hm]; rfl, lineStep_inv h hb hr hm, by rw [hn']; exact hparams,
    by rw [hn']; exact hmaxpay⟩, heq, ?_⟩
  obtain ⟨hf, _, -, -, -, hpending⟩ | ⟨hf, -, hpending⟩ := hbytes <;> simp [hf, hpending]

theorem lineFire_eq_rxReady {b : Byte} {p : List Byte} (hr : e.rst = false) (hp : l.pending = b :: p) :
    lineFire e l = rxReady false l.block := by
  simp [lineFire, fire, lineInputs, hp, hr]

theorem rxData_of_pending {b : Byte} {p : List Byte} (hp : l.pending = b :: p) :
    (lineInputs e l.pending).rxData = b := by
  simp [lineInputs, hp]

/-- A cycle that takes the oldest byte. -/
theorem reaches_taking {b : Byte} {p : List Byte} (h : Inv l.block) (hready : rxReady false l.block = true)
    (hr : e.rst = false) (hp : l.pending = b :: p)
    (hn : receive (lineInputs e l.pending) (offered e l) (afterCommand (offered e l)) = n) :
    ∃ m, Reaches [e] l m ∧ m.block = endOfCycle (offered e l) n ∧ m.pending = p ++ e.arrivals := by
  have hf : lineFire e l = true := (lineFire_eq_rxReady hr hp).trans hready
  obtain ⟨m, hm, hblock, hpending⟩ := reaches_of_receive h (busy_of_fire hf) hr hn
  exact ⟨m, hm, hblock, by rw [hpending, if_pos hf, hp, List.tail_cons]⟩

/-! ### One cycle of each phase -/

theorem reaches_sync_garbage {b : Byte} {p : List Byte} (h : Inv l.block) (hs : l.block.st = .sync)
    (ht : l.block.tmr < l.block.tsync) (hr : e.rst = false) (hk : e.tick = true) (hp : l.pending = b :: p)
    (hb : b ≠ 0x40) : ∃ m, Reaches [e] l m ∧ m.block.st = .sync ∧ m.block.tmr.toNat = l.block.tmr.toNat + 1 ∧
      m.block.tsync = l.block.tsync ∧ m.pending = p ++ e.arrivals := by
  have hready : rxReady false l.block = true := (rxReady_iff_below_limit _ _).mpr ⟨rfl, .inl ⟨hs, ht⟩⟩
  have hn := receiveSync_of_no_sentinel (c := lineInputs e l.pending) (s := offered e l) (afterCommand (offered e l))
    (expired_sync_of_lt hs ht) (fun _ => by rw [rxData_of_pending hp]; exact hb)
  obtain ⟨m, hm, hblock, hpending⟩ := reaches_taking h hready hr hp ((receive_sync hs _ _).trans hn)
  have htick : (tinc e.tick l.block.tmr).toNat = l.block.tmr.toNat + 1 := by rw [tinc_toNat_of_lt ht, hk]; rfl
  exact ⟨m, hm, by rw [hblock]; simpa using hs, by rw [hblock]; exact htick, by rw [hblock]; simp, hpending⟩

theorem reaches_sync_sentinel {p : List Byte} (h : Inv l.block) (hs : l.block.st = .sync)
    (ht : l.block.tmr < l.block.tsync) (hr : e.rst = false) (hp : l.pending = 0x40 :: p) :
    ∃ m, Reaches [e] l m ∧ m.block.st = .settle ∧ m.block.tmr = 0 ∧ m.pending = p ++ e.arrivals := by
  have hready : rxReady false l.block = true := (rxReady_iff_below_limit _ _).mpr ⟨rfl, .inl ⟨hs, ht⟩⟩
  have hn := receiveSync_of_sentinel (c := lineInputs e l.pending) (s := offered e l) (afterCommand (offered e l))
    (expired_sync_of_lt hs ht) (by simp [lineInputs, hp]) (rxData_of_pending hp)
  obtain ⟨m, hm, hblock, hpending⟩ := reaches_taking h hready hr hp ((receive_sync hs _ _).trans hn)
  exact ⟨m, hm, by rw [hblock]; rfl, by rw [hblock]; rfl, hpending⟩

/-- SETTLE takes no byte. -/
theorem reaches_settle (h : Inv l.block) (hs : l.block.st = .settle) (hr : e.rst = false)
    (hn : receiveSettle (lineInputs e l.pending) (offered e l) (afterCommand (offered e l)) = n) :
    ∃ m, Reaches [e] l m ∧ m.block = endOfCycle (offered e l) n ∧ m.pending = l.pending ++ e.arrivals := by
  have hf : lineFire e l = false := fire_eq_false_of_settle hs
  have hb : busy l.block = true := (busy_iff _).mpr (.inr (.inl hs))
  obtain ⟨m, hm, hblock, hpending⟩ := reaches_of_receive h hb hr ((receive_settle hs _ _).trans hn)
  exact ⟨m, hm, hblock, by rw [hpending, if_neg (by simp [hf])]⟩

theorem reaches_settle_tick (h : Inv l.block) (hs : l.block.st = .settle) (ht : l.block.tmr < l.block.params.tSettle)
    (hr : e.rst = false) (hk : e.tick = true) : ∃ m, Reaches [e] l m ∧ m.block.st = .settle ∧
      m.block.tmr.toNat = l.block.tmr.toNat + 1 ∧ m.pending = l.pending ++ e.arrivals := by
  have he : expired (offered e l) = false := (expired_settle hs).trans (by simpa using ht)
  obtain ⟨m, hm, hblock, hpending⟩ := reaches_settle h hs hr (receiveSettle_of_waiting _ he)
  have htick : (tinc e.tick l.block.tmr).toNat = l.block.tmr.toNat + 1 := by rw [tinc_toNat_of_lt ht, hk]; rfl
  exact ⟨m, hm, by rw [hblock]; simpa using hs, by rw [hblock]; exact htick, hpending⟩

theorem reaches_settle_end (h : Inv l.block) (hs : l.block.st = .settle) (ht : l.block.params.tSettle ≤ l.block.tmr)
    (hr : e.rst = false) : ∃ m, Reaches [e] l m ∧ m.block.st = .lenwait ∧ m.block.tmr = 0 ∧
      m.pending = l.pending ++ e.arrivals := by
  have he : expired (offered e l) = true := (expired_settle hs).trans (by simpa using ht)
  obtain ⟨m, hm, hblock, hpending⟩ := reaches_settle h hs hr (receiveSettle_of_expired _ he)
  exact ⟨m, hm, by rw [hblock]; rfl, by rw [hblock]; rfl, hpending⟩

theorem reaches_length {b : Byte} {p : List Byte} (h : Inv l.block) (hs : l.block.st = .lenwait)
    (ht : l.block.tmr < l.block.params.tLen) (hr : e.rst = false) (hp : l.pending = b :: p)
    (hl : lenok l.block.params l.block.maxpay b = true) : ∃ m, Reaches [e] l m ∧ m.block.st = .body ∧
      m.block.tmr = 0 ∧ m.block.len = b ∧ m.block.idx = 2 ∧ m.pending = p ++ e.arrivals := by
  have hready : rxReady false l.block = true := (rxReady_iff_below_limit _ _).mpr ⟨rfl, .inr (.inl ⟨hs, ht⟩)⟩
  have hn := receiveLenwait_of_valid_length (c := lineInputs e l.pending) (s := offered e l)
    (afterCommand (offered e l)) (expired_lenwait_of_lt hs ht) (by simp [lineInputs, hp])
    (by rw [rxData_of_pending hp]; exact hl)
  obtain ⟨m, hm, hblock, hpending⟩ := reaches_taking h hready hr hp ((receive_lenwait hs _ _).trans hn)
  exact ⟨m, hm, by rw [hblock]; rfl, by rw [hblock]; rfl, by rw [hblock]; exact rxData_of_pending (e := e) hp,
    by rw [hblock]; rfl, hpending⟩

/-- A body byte goes to BUF, and the timer is below its limit for the next one: restarted, or one tick on. -/
theorem reaches_body_byte {b : Byte} {p : List Byte} (h : Inv l.block) (hs : l.block.st = .body)
    (ht : l.block.tmr < l.block.params.tBody) (hr : e.rst = false) (hk : e.tick = true) (hp : l.pending = b :: p)
    (hi : l.block.idx.toNat < l.block.len.toNat + 2) : ∃ m, Reaches [e] l m ∧ m.block.st = .body ∧
      m.block.len = l.block.len ∧ m.block.idx.toNat = l.block.idx.toNat + 1 ∧
      stored m.block = stored l.block ++ [b] ∧
      (l.block.params.bodyMode = .total → m.block.tmr.toNat = l.block.tmr.toNat + 1) ∧
      (l.block.params.bodyMode = .interByte → m.block.tmr = 0) ∧ m.pending = p ++ e.arrivals := by
  have hready : rxReady false l.block = true := (rxReady_iff_below_limit _ _).mpr ⟨rfl, .inr (.inr ⟨hs, ht⟩)⟩
  have hn := receiveBody_of_body_byte (c := lineInputs e l.pending) (s := offered e l) (afterCommand (offered e l))
    (expired_body_of_lt hs ht) (by simp [lineInputs, hp]) hi
  obtain ⟨m, hm, hblock, hpending⟩ := reaches_taking h hready hr hp ((receive_body hs _ _).trans hn)
  have hfacts : BodyFacts (offered e l) := (inv_iff_of_body (s := offered e l) hs).mp h
  have hstore := stored_of_body_store hfacts (n := m.block) (v := b) (by rw [hblock]; rfl)
    (by rw [hblock, ← rxData_of_pending (e := e) hp]; rfl)
  have htick : (tinc e.tick l.block.tmr).toNat = l.block.tmr.toNat + 1 := by rw [tinc_toNat_of_lt ht, hk]; rfl
  refine ⟨m, hm, by rw [hblock]; simpa using hs, by rw [hblock]; simp, ?_, hstore, fun hm => ?_, fun hm => ?_,
    hpending⟩
  · rw [hblock]
    exact idx_succ_toNat hi.le
  · have hm' : (offered e l).params.bodyMode = .total := hm
    rw [hblock, endOfCycle_tmr, storeBodyByte_tmr, hm']
    exact htick
  · have hm' : (offered e l).params.bodyMode = .interByte := hm
    rw [hblock, endOfCycle_tmr, storeBodyByte_tmr, hm']

/-- The checksum byte goes to BUF, and the frame is complete, with its sum in ACC. -/
theorem reaches_checksum {b : Byte} {p : List Byte} (h : Inv l.block) (hs : l.block.st = .body)
    (ht : l.block.tmr < l.block.params.tBody) (hr : e.rst = false) (hp : l.pending = b :: p)
    (hi : l.block.idx.toNat = l.block.len.toNat + 2) : ∃ m, Reaches [e] l m ∧ m.block.st = .done ∧
      m.block.len = l.block.len ∧ stored m.block = stored l.block ++ [b] ∧ InvSumStated m.block ∧
      m.pending = p ++ e.arrivals := by
  have hready : rxReady false l.block = true := (rxReady_iff_below_limit _ _).mpr ⟨rfl, .inr (.inr ⟨hs, ht⟩)⟩
  have hn := receiveBody_of_checksum (c := lineInputs e l.pending) (s := offered e l) (afterCommand (offered e l))
    (expired_body_of_lt hs ht) (by simp [lineInputs, hp]) hi
  obtain ⟨m, hm, hblock, hpending⟩ := reaches_taking h hready hr hp ((receive_body hs _ _).trans hn)
  have hfacts : BodyFacts (offered e l) := (inv_iff_of_body (s := offered e l) hs).mp h
  have hstore := stored_of_body_store hfacts (n := m.block) (v := b) (by rw [hblock]; rfl)
    (by rw [hblock, ← rxData_of_pending (e := e) hp]; rfl)
  have hc : FrameCycle (offered e l)
      (storeChecksum (lineInputs e l.pending) (offered e l) (afterCommand (offered e l))) :=
    .checksum hs ht ((lineFire_eq_rxReady hr hp).trans hready) hi
  exact ⟨m, hm, by rw [hblock]; rfl, by rw [hblock]; simp, hstore, by rw [hblock]; exact (hc.stated h).2,
    hpending⟩

end

/-! ### The cycles of a phase -/

/-- Cycles of the environment with a tick each, and no reset. -/
abbrev AllTicking (es : List EnvCycle) : Prop := ∀ e ∈ es, e.rst = false ∧ e.tick = true

/-- The bytes that arrive over some cycles. -/
def arrived (es : List EnvCycle) : List Byte := (es.map EnvCycle.arrivals).flatten

@[simp] theorem arrived_nil : arrived [] = [] := rfl

@[simp] theorem arrived_cons (e : EnvCycle) (es : List EnvCycle) : arrived (e :: es) = e.arrivals ++ arrived es := rfl

@[simp] theorem arrived_append (es fs : List EnvCycle) : arrived (es ++ fs) = arrived es ++ arrived fs := by
  simp [arrived]

/-- SYNC takes the garbage and the sentinel, one byte a cycle. -/
theorem reaches_settle_of_sync (g : List Byte) : ∀ (es : List EnvCycle) (l : Line) (p : List Byte), Inv l.block →
    l.block.st = .sync → l.block.tmr.toNat + g.length < l.block.tsync.toNat → AllTicking es →
    es.length = g.length + 1 → l.pending = g ++ 0x40 :: p → (0x40 : Byte) ∉ g →
    ∃ m, Reaches es l m ∧ m.block.st = .settle ∧ m.block.tmr = 0 ∧ m.pending = p ++ arrived es := by
  induction g with
  | nil =>
    intro es l p h hs ht hes hlen hp _
    obtain ⟨e, rfl⟩ := List.length_eq_one_iff.mp hlen
    obtain ⟨m, hm, hst, htmr, hpending⟩ :=
      reaches_sync_sentinel h hs (BitVec.lt_def.mpr ht) (hes e (by simp)).1 hp
    exact ⟨m, hm, hst, htmr, by rw [hpending]; simp⟩
  | cons b g ih =>
    intro es l p h hs ht hes hlen hp hg
    obtain ⟨e, es, rfl⟩ := List.exists_cons_of_length_eq_add_one hlen
    rw [AllTicking, List.forall_mem_cons] at hes
    rw [List.mem_cons, not_or] at hg
    simp only [List.length_cons] at ht hlen
    obtain ⟨k, hk, hst, htmr, htsync, hpending⟩ :=
      reaches_sync_garbage h hs (BitVec.lt_def.mpr (by omega)) hes.1.1 hes.1.2 hp (fun hb => hg.1 hb.symm)
    obtain ⟨m, hm, hsettle, hzero, hleft⟩ := ih es k (p ++ e.arrivals) hk.inv hst (by rw [htmr, htsync]; omega) hes.2
      (by omega) (by rw [hpending]; simp) hg.2
    exact ⟨m, hk.trans hm, hsettle, hzero, by rw [hleft]; simp⟩

/-- SETTLE counts its ticks and takes nothing. -/
theorem reaches_lenwait_of_settle (k : Nat) : ∀ (es : List EnvCycle) (l : Line), Inv l.block → l.block.st = .settle →
    l.block.tmr.toNat + k = l.block.params.tSettle.toNat → AllTicking es → es.length = k + 1 →
    ∃ m, Reaches es l m ∧ m.block.st = .lenwait ∧ m.block.tmr = 0 ∧ m.pending = l.pending ++ arrived es := by
  induction k with
  | zero =>
    intro es l h hs ht hes hlen
    obtain ⟨e, rfl⟩ := List.length_eq_one_iff.mp hlen
    obtain ⟨m, hm, hst, htmr, hpending⟩ :=
      reaches_settle_end h hs (BitVec.le_def.mpr (by omega)) (hes e (by simp)).1
    exact ⟨m, hm, hst, htmr, by rw [hpending]; simp⟩
  | succ k ih =>
    intro es l h hs ht hes hlen
    obtain ⟨e, es, rfl⟩ := List.exists_cons_of_length_eq_add_one hlen
    rw [AllTicking, List.forall_mem_cons] at hes
    obtain ⟨j, hj, hst, htmr, hpending⟩ :=
      reaches_settle_tick h hs (BitVec.lt_def.mpr (by omega)) hes.1.1 hes.1.2
    obtain ⟨m, hm, hlenwait, hzero, hleft⟩ := ih es j hj.inv hst (by rw [htmr, hj.params]; omega) hes.2
      (by simpa using hlen)
    exact ⟨m, hj.trans hm, hlenwait, hzero, by rw [hleft, hpending]; simp⟩

/-- The timer leaves room for `n` body bytes with a tick each. -/
def RoomFor (n : Nat) (s : State) : Prop :=
  (s.params.bodyMode = .total → s.tmr.toNat + n ≤ s.params.tBody.toNat) ∧
  (s.params.bodyMode = .interByte → s.tmr.toNat < s.params.tBody.toNat)

theorem RoomFor.below_limit {n : Nat} {s : State} (h : RoomFor (n + 1) s) : s.tmr < s.params.tBody := by
  obtain ⟨htotal, hinter⟩ := h
  rw [BitVec.lt_def]
  cases hm : s.params.bodyMode with
  | total => have := htotal hm; omega
  | interByte => exact hinter hm

/-- BODY takes the rest of the frame, one byte a cycle. -/
theorem reaches_done_of_body (bs : List Byte) : ∀ (b : Byte) (es : List EnvCycle) (l : Line) (p : List Byte),
    Inv l.block → l.block.st = .body → RoomFor (bs.length + 1) l.block → AllTicking es → es.length = bs.length + 1 →
    l.pending = b :: bs ++ p → l.block.idx.toNat + bs.length = l.block.len.toNat + 2 →
    ∃ m, Reaches es l m ∧ m.block.st = .done ∧ m.block.len = l.block.len ∧
      stored m.block = stored l.block ++ b :: bs ∧ InvSumStated m.block ∧ m.pending = p ++ arrived es := by
  induction bs with
  | nil =>
    intro b es l p h hs ht hes hlen hp hi
    obtain ⟨e, rfl⟩ := List.length_eq_one_iff.mp hlen
    obtain ⟨m, hm, hst, hlenm, hstore, hsum, hpending⟩ :=
      reaches_checksum h hs ht.below_limit (hes e (by simp)).1 hp (by simpa using hi)
    exact ⟨m, hm, hst, hlenm, hstore, hsum, by rw [hpending]; simp⟩
  | cons b' bs ih =>
    intro b es l p h hs ht hes hlen hp hi
    obtain ⟨e, es, rfl⟩ := List.exists_cons_of_length_eq_add_one hlen
    rw [AllTicking, List.forall_mem_cons] at hes
    simp only [List.length_cons] at ht hlen hi
    obtain ⟨k, hk, hst, hlenk, hidx, hstore, htotal, hinter, hpending⟩ :=
      reaches_body_byte h hs ht.below_limit hes.1.1 hes.1.2 hp (by omega)
    have hroom : RoomFor (bs.length + 1) k.block := by
      refine ⟨fun hm => ?_, fun hm => ?_⟩ <;> rw [hk.params] at hm ⊢
      · have := ht.1 hm
        rw [htotal hm]
        omega
      · have := ht.2 hm
        rw [hinter hm]
        exact Nat.zero_lt_of_lt this
    obtain ⟨m, hm, hdone, hlenm, hall, hsum, hleft⟩ := ih b' es k (p ++ e.arrivals) hk.inv hst hroom hes.2 (by omega)
      (by rw [hpending]; simp) (by rw [hidx, hlenk]; omega)
    refine ⟨m, hk.trans hm, hdone, hlenm.trans hlenk, ?_, hsum, by rw [hleft]; simp⟩
    rw [hall, hstore, List.append_assoc]
    rfl

/-! ### The obligation -/

theorem Memory.firstBytes_dropLast (m : Memory) (n : Nat) : (m.firstBytes (n + 1)).dropLast = m.firstBytes n := by
  rw [Memory.firstBytes_succ, List.dropLast_concat]

theorem stored_of_idx_two {s : State} (h : FrameFacts s) (hidx : s.idx = 2) : stored s = [0x40, s.len] := by
  have hread : stored s = [bufRead s 0, bufRead s 1] := by rw [stored, hidx]; rfl
  rw [hread, h.sentinel, h.length]

/-- Four runs of given lengths, one for each phase. -/
theorem exists_append_of_length {α : Type} {es : List α} {a b c d : Nat} (h : es.length = a + b + c + d) :
    ∃ w x y z, es = w ++ (x ++ (y ++ z)) ∧ w.length = a ∧ x.length = b ∧ y.length = c ∧ z.length = d :=
  ⟨es.take a, (es.drop a).take b, ((es.drop a).drop b).take c, ((es.drop a).drop b).drop c, by simp, by simp; omega,
    by simp; omega, by simp; omega, by simp; omega⟩

/-- Settles O54, phase by phase. -/
theorem offeredFrameReachesDone : Obligations.OfferedFrameReachesDone := by
  intro es l g body rest len h hs htmr hp hg hl hbody htsync htlen htotal hinter hes hlen
  obtain ⟨sync, settle, lenwait, frame, rfl, hlsync, hlsettle, hllenwait, hlframe⟩ := exists_append_of_length hlen
  simp only [List.forall_mem_append] at hes
  obtain ⟨hsync, hsettle, hlenwait, hframe⟩ := hes
  obtain ⟨e, rfl⟩ := List.length_eq_one_iff.mp hllenwait
  obtain ⟨b, bs, rfl⟩ := List.exists_cons_of_length_eq_add_one hbody
  obtain ⟨k₁, hk₁, hst₁, htmr₁, hp₁⟩ := reaches_settle_of_sync g sync l (len :: b :: bs ++ rest) h hs
    (by rw [htmr]; simpa using htsync) hsync hlsync (by rw [hp]; simp) hg
  obtain ⟨k₂, hk₂, hst₂, htmr₂, hp₂⟩ := reaches_lenwait_of_settle _ settle k₁ hk₁.inv hst₁
    (by rw [htmr₁, hk₁.params]; simp) hsettle hlsettle
  have hk₁₂ := hk₁.trans hk₂
  obtain ⟨k₃, hk₃, hst₃, htmr₃, hlen₃, hidx₃, hp₃⟩ := reaches_length (e := e) (b := len)
    (p := b :: bs ++ (rest ++ arrived sync ++ arrived settle)) hk₁₂.inv hst₂
    (by rw [htmr₂, hk₁₂.params]; exact BitVec.lt_def.mpr htlen) (hlenwait e (by simp)).1
    (by rw [hp₂, hp₁]; simp) (by rw [hk₁₂.params, hk₁₂.maxpay]; exact hl)
  have hk₁₂₃ := hk₁₂.trans hk₃
  have hlength : bs.length = len.toNat := by simpa using hbody
  have hroom : RoomFor (bs.length + 1) k₃.block := by
    refine ⟨fun hm => ?_, fun hm => ?_⟩ <;> rw [hk₁₂₃.params] at hm ⊢ <;> rw [htmr₃]
    · rw [hlength]
      exact (Nat.zero_add _).trans_le (htotal hm)
    · exact hinter hm
  obtain ⟨m, hm, hst, hlenm, hstored, hsum, hpending⟩ := reaches_done_of_body bs b frame k₃
    (rest ++ arrived sync ++ arrived settle ++ e.arrivals) hk₁₂₃.inv hst₃ hroom hframe (by omega)
    (by rw [hp₃]; simp) (by rw [hidx₃, hlen₃, hlength]; simp [Nat.add_comm])
  have hrun := hk₁₂₃.trans hm
  have hdone := (inv_iff_of_done hst).mp hrun.inv
  have hhead := stored_of_idx_two ((inv_iff_of_body hst₃).mp hk₁₂₃.inv).toFrameFacts hidx₃
  have hlenAll : m.block.len = len := hlenm.trans hlen₃
  have hidx : m.block.idx.toNat = len.toNat + 3 := hlenAll ▸ hdone.idx
  have hbytes : m.block.buf.firstBytes (len.toNat + 3) = 0x40 :: len :: b :: bs := by
    rw [← hidx, ← stored, hstored, hhead, hlen₃]
    rfl
  have hinit : m.block.buf.firstBytes (len.toNat + 2) = 0x40 :: len :: (b :: bs).dropLast := by
    rw [← Memory.firstBytes_dropLast, hbytes]
    rfl
  have hacc := hsum (by simp [hst])
  rw [hidx, hlenAll, min_eq_right (by omega), hinit] at hacc
  refine ⟨m, by simpa using hrun.run, hst, hdone.err, hlenAll, hidx, hbytes, hacc, chk_eq_compute hacc, ?_⟩
  rw [hpending, ← arrived]
  simp

end Sys2Proof.Machine
end
